-- ==== Sys2Proof/Word.lean ====
section
/-! DEFINITION. The bit patterns of fixed width: the fields of the command port and of the frame.
A register of the block has a width that is a parameter (`W`, `8V`, `C`), so it is held as an
unsigned number with its bound stated as an invariant (`Sys2Proof.Safety`); log 2. -/

namespace Sys2Proof

/-- One byte of the frame (R31, R38). -/
abbrev Byte := BitVec 8

/-- The operation code field `cmd_op` (R45). -/
abbrev Opcode := BitVec 3

/-- The index operand field `cmd_idx`, "an unsigned 9-bit number used as it stands" (R45, R48). -/
abbrev Idx := BitVec 9

/-- The checksum accumulator, 16 bits and unsigned (R16, R99). -/
abbrev Checksum := BitVec 16

/-- A pin id: an opaque value the block does no arithmetic on (R4, R20). -/
abbrev PinId := Nat

end Sys2Proof
end

