-- ==== Sys2Proof/Config.lean ====
section
/-! DEFINITION. The implementation parameters of R4 and the free values the spec leaves open.
The parameters are an argument of the model: `Sys2Proof.Machine.State.par` carries one set,
no step changes it, and the statements hold for every legal set (log 1). -/

namespace Sys2Proof

/-- Button wiring polarity `POL` (R4): one parameter for the whole bank (R66). -/
inductive Polarity where
  | pullup
  | pulldown
deriving DecidableEq, Repr

/-- The static parameters of R4, "fixed when the block is built". -/
structure Params where
  /-- logical number of buttons -/
  B : Nat
  /-- logical number of potentiometer channels -/
  P : Nat
  /-- width in bits of a button word -/
  W : Nat
  /-- button wiring polarity `POL` -/
  pol : Polarity
  /-- target resolution of the remapper -/
  R : Nat
  /-- bytes per potentiometer value -/
  V : Nat
  /-- largest raw analog sample `MAX_RAW` -/
  maxRaw : Nat
  /-- width in bits of one calibration entry -/
  C : Nat
  /-- whether calibration exists, `CAL_EN` -/
  calEn : Bool
  /-- pin id of each button, `BTN_PIN` -/
  btnPin : List PinId
  /-- pin id of each channel, `POT_PIN` -/
  potPin : List PinId
deriving DecidableEq, Repr

/-- The parameter set `Sys2Proof.Machine.State.reset` carries: that of Program 3 of
spec/95_test_vectors.md (both banks, the reference `W`, `V`, `R` of R7). The pin ids are
opaque and numbered from 0. DESIGN CHOICE (log 1): the spec leaves every parameter open. -/
def Params.reference : Params where
  B := 17
  P := 2
  W := 16
  pol := .pulldown
  R := 4095
  V := 2
  maxRaw := 1023
  C := 16
  calEn := true
  btnPin := [0, 1, 2, 3, 4, 5, 6, 7, 8, 9, 10, 11, 12, 13, 14, 15, 16]
  potPin := [17, 18]

/-- The answer to the `n`-th `read_digital` since reset, where the state lists none: "value
chosen by the environment" (R123). Free value, log 3. -/
opaque Config.freeDigital : Nat → Bool

/-- The answer to the `n`-th `read_analog`, where the state lists none (R123). Free value, log 3. -/
opaque Config.freeAnalog : Nat → Nat

/-- The answer to the `n`-th `diag_in_avail`, where the state lists none (R125). Free value, log 3. -/
opaque Config.freeDone : Nat → Bool

/-- What `rsp_data` holds after a command that returns nothing: "unspecified and must not be
read" (R46). Free value, log 9. -/
opaque Config.freeRspData : Nat → Nat

/-- What `csum` holds between commands: "not observable by any command and is unspecified"
(R16). Free value, log 8. -/
opaque Config.freeCsum : Nat → Checksum

end Sys2Proof
end

