-- ==== Sys2Proof/Machine/Derived.lean ====
section
/-! DEFINITION. The derived constants of R5, `UNSIGNED_MAX` of R4, the response width of R46
and the number of calibration registers of each kind (R13). -/

namespace Sys2Proof

/-- `NW = ceil(B / W)`, the number of button words (R5). -/
def Params.nw (p : Params) : Nat := (p.B + p.W - 1) / p.W

/-- `WB = W / 8`, the bytes of a button word (R5). -/
def Params.wb (p : Params) : Nat := p.W / 8

/-- `L = 4 + NW*WB + P*V`, the total frame length in bytes (R5, conflict C1). -/
def Params.frameLen (p : Params) : Nat := 4 + p.nw * p.wb + p.P * p.V

/-- `UNSIGNED_MAX = 2^C - 1` (R4). -/
def Params.unsignedMax (p : Params) : Nat := 2 ^ p.C - 1

/-- `RW = max(W, 8V, C)`, the width of the response port (R46). -/
def Params.rspWidth (p : Params) : Nat := max p.W (max (8 * p.V) p.C)

/-- How many `cal_min` and how many `cal_max` registers exist: the table is absent when
`P = 0` or `CAL_EN = false` (R13). -/
def Params.calCount (p : Params) : Nat := if p.calEn then p.P else 0

/-- The pin id of button `i` (R4). -/
def Params.btnPinAt (p : Params) (i : Nat) : PinId := p.btnPin.getD i 0

/-- The pin id of channel `k` (R4). -/
def Params.potPinAt (p : Params) (k : Nat) : PinId := p.potPin.getD k 0

/-- `TAG = 0x40` (R5, R52). -/
def frameTag : Byte := 0x40#8

/-- `CSUM_INIT = 0xFFFF` (R5). -/
def csumInit : Checksum := 0xFFFF#16

end Sys2Proof
end

