-- ==== Sys2Proof/Syntax.lean ====
section
/-! DEFINITION. The eight commands of R47, one constructor per row of spec/opcode_table.json. -/

namespace Sys2Proof

/-- The commands of the block. `cmd_idx` operands are the 9-bit field itself (R48); the data
operand of WRCAL is an unsigned number of `C` bits, checked by `Instr.Wf`. -/
inductive Instr where
  /-- `NOP` (R110) -/
  | nop
  /-- `CONFIGURE` (R111) -/
  | configure
  /-- `SAMPLE` (R112) -/
  | sample
  /-- `EMIT` (R113) -/
  | emit
  /-- `RDWORD j` (R68) -/
  | rdword (j : Idx)
  /-- `RDPOT k` (R85) -/
  | rdpot (k : Idx)
  /-- `RDCAL e` (R86) -/
  | rdcal (e : Idx)
  /-- `WRCAL e, v` (R87) -/
  | wrcal (e : Idx) (v : Nat)
deriving DecidableEq, Repr

end Sys2Proof
end

