-- ==== Sys2Proof/WellFormed.lean ====
section
/-! DEFINITION. The configuration constraints of R6, one named check each, and the
well-formedness of a command. -/

namespace Sys2Proof

/-- R6 item 1: at least one bank is non-empty. -/
abbrev Params.SomeBank (p : Params) : Prop := 1 ≤ p.B + p.P

/-- R6 item 2: a word is a whole, positive number of bytes. -/
abbrev Params.WholeBytes (p : Params) : Prop := p.W % 8 = 0 ∧ 8 ≤ p.W

/-- R6 item 3: the length fits the frame's length byte. -/
abbrev Params.LengthFits (p : Params) : Prop := p.frameLen ≤ 255

/-- R6 item 4: every remapped value fits in `V` bytes; `V` is positive (R4). -/
abbrev Params.ResolutionFits (p : Params) : Prop := 1 ≤ p.V ∧ 1 ≤ p.R ∧ p.R ≤ 2 ^ (8 * p.V) - 1

/-- R6 item 5: the native range fits a calibration entry; `C` is positive (R4). -/
abbrev Params.NativeRangeFits (p : Params) : Prop := 1 ≤ p.C ∧ 1 ≤ p.maxRaw ∧ p.maxRaw ≤ p.unsignedMax

/-- R6 item 6: without calibration a raw sample fits in a potentiometer value. -/
abbrev Params.RawFits (p : Params) : Prop := p.calEn = false → 0 < p.P → p.maxRaw ≤ 2 ^ (8 * p.V) - 1

/-- R6 item 7: the pin tables have one entry per button and per channel. -/
abbrev Params.PinTables (p : Params) : Prop := p.btnPin.length = p.B ∧ p.potPin.length = p.P

/-- A parameter set that describes a block of this kind (R6). -/
abbrev Params.Wf (p : Params) : Prop :=
  p.SomeBank ∧ p.WholeBytes ∧ p.LengthFits ∧ p.ResolutionFits ∧ p.NativeRangeFits ∧ p.RawFits ∧ p.PinTables

/-- A command of a block whose `cmd_wdata` field is `c` bits wide (R45): the data operand of
WRCAL fits the field. Every other operand is its field. -/
abbrev Instr.Wf (c : Nat) (i : Instr) : Prop :=
  match i with
  | .nop => True
  | .configure => True
  | .sample => True
  | .emit => True
  | .rdword _ => True
  | .rdpot _ => True
  | .rdcal _ => True
  | .wrcal _ v => v < 2 ^ c

end Sys2Proof
end

