-- ==== Sys2Proof/Decode.lean ====
section
/-! DEFINITION. The command word `{cmd_wdata, cmd_idx, cmd_op}` of R45 and the operation codes
of R47: the decoder, and after it the encoder. The decoder is total and refuses nothing, since
"all eight values of `cmd_op` are assigned" and "fields a format does not use are ignored
whatever they hold" (R49). -/

namespace Sys2Proof

/-- `cmd_op`, bits `[2:0]` of a command word (R45). -/
def wordOp (w : Nat) : Opcode := BitVec.ofNat 3 w

/-- `cmd_idx`, bits `[11:3]` of a command word (R45). -/
def wordIdx (w : Nat) : Idx := BitVec.ofNat 9 (w / 2 ^ 3)

/-- `cmd_wdata`, bits `[11+C:12]` of a command word (R45). Bits above are no wires of the port
(log 7). -/
def wordData (c w : Nat) : Nat := w / 2 ^ 12 % 2 ^ c

/-- The command the port's three fields select (R47). -/
def decodePort (op : Opcode) (idx : Idx) (wdata : Nat) : Instr :=
  if op = 0b000#3 then .nop
  else if op = 0b001#3 then .configure
  else if op = 0b010#3 then .sample
  else if op = 0b011#3 then .emit
  else if op = 0b100#3 then .rdword idx
  else if op = 0b101#3 then .rdpot idx
  else if op = 0b110#3 then .rdcal idx
  else .wrcal idx wdata

/-- The command of a command word, on a block whose data field is `c` bits wide (R45, R47). -/
def decodeWord (c w : Nat) : Instr := decodePort (wordOp w) (wordIdx w) (wordData c w)

/-- The operation code of a command (R47). -/
def Instr.opcode (i : Instr) : Opcode :=
  match i with
  | .nop => 0b000#3
  | .configure => 0b001#3
  | .sample => 0b010#3
  | .emit => 0b011#3
  | .rdword _ => 0b100#3
  | .rdpot _ => 0b101#3
  | .rdcal _ => 0b110#3
  | .wrcal _ _ => 0b111#3

/-- The index field of a command, "zero where the format has none" (R56). -/
def Instr.idxField (i : Instr) : Idx :=
  match i with
  | .nop => 0#9
  | .configure => 0#9
  | .sample => 0#9
  | .emit => 0#9
  | .rdword j => j
  | .rdpot k => k
  | .rdcal e => e
  | .wrcal e _ => e

/-- The data field of a command, "zero where the format has none" (R56). -/
def Instr.dataField (i : Instr) : Nat :=
  match i with
  | .nop => 0
  | .configure => 0
  | .sample => 0
  | .emit => 0
  | .rdword _ => 0
  | .rdpot _ => 0
  | .rdcal _ => 0
  | .wrcal _ v => v

/-- The command word of a command: `{cmd_wdata, cmd_idx, cmd_op}` (R45, R56). -/
def encode (i : Instr) : Nat := i.dataField * 2 ^ 12 + i.idxField.toNat * 2 ^ 3 + i.opcode.toNat

/-- `WRPAIR k, mn, mx`: `WRCAL 2k, mn` then `WRCAL 2k+1, mx` (R57). DESIGN CHOICE (log 23): for
`k >= 256`, where the spec is silent, the 9-bit index fields hold `2k` and `2k+1` modulo 512. -/
def wrpair (k mn mx : Nat) : List Instr :=
  [.wrcal (BitVec.ofNat 9 (2 * k)) mn, .wrcal (BitVec.ofNat 9 (2 * k + 1)) mx]

/-- `CYCLE`: `SAMPLE` then `EMIT` (R57). -/
def cycle : List Instr := [.sample, .emit]

/-- The width of `cmd_wdata` in spec/opcode_table.json, which shows the word "for C = 16". -/
def tableDataWidth : Nat := 16

/-- The command the decoder reads from a table row's word of `nbits` bits (log 19). -/
def decodeTableWord (nbits w : Nat) : Option Instr := some (decodeWord tableDataWidth (w % 2 ^ nbits))

end Sys2Proof
end

