-- ==== Sys2Proof/Machine/State.lean ====
section
/-! DEFINITION. The machine's state as plain data, its faults and refusals, and reset (R22). -/

namespace Sys2Proof.Machine

/-- The pin modes of `configure_pin` (R55). -/
inductive PinMode where
  | inputPullup
  | inputPulldown
  | analogInput
deriving DecidableEq, Repr

/-- The kinds of a diagnostic event (R54). -/
inductive DiagKind where
  | prompt
  | degenerate
  | cal
deriving DecidableEq, Repr

/-- A diagnostic event `kind, chan, min, max`; a field the kind does not use is 0 (R54). -/
structure DiagEvent where
  kind : DiagKind
  chan : Nat
  min : Nat
  max : Nat
deriving DecidableEq, Repr

/-- One environment transaction, with the environment's answer where it gives one
(spec/00_scope.md section 6, R123, R124, R125). -/
inductive Transaction where
  | configurePin (id : PinId) (mode : PinMode)
  | readDigital (id : PinId) (answer : Bool)
  | readAnalog (id : PinId) (answer : Nat)
  | sinkWrite (b : Byte)
  | diagEmit (e : DiagEvent)
  | diagInAvail (answer : Bool)
deriving DecidableEq, Repr

/-- What the host does next. The block has no program (R17): the host's command stream is the
only program (R42), and reset is the host's other input (R135). Log 6. -/
inductive HostEvent where
  /-- a command word put on the command port (R45) -/
  | command (w : Nat)
  /-- a command word put on the command port, and the reset input asserted while that command is in
  progress, once it has made `n` of its transactions (R146; log 11); of a CONFIGURE that
  auto-calibrates these are the pins and the prompt, and `reset` cuts its wait (log 5) -/
  | interrupted (w n : Nat)
  /-- the reset input (R135); while CONFIGURE waits, asserted once the pass in progress has made `n`
  of its transactions (R141, R146; log 11) -/
  | reset (n : Nat)
  /-- the host does nothing for one step -/
  | pause
deriving DecidableEq, Repr

/-- The answers the environment will give, oldest first, and how many it has given of each kind.
Beyond a list the answer is a free value indexed by the count (R9, R123, R125; log 3). -/
structure Env where
  digital : List Bool
  analog : List Nat
  done : List Bool
  digitalReads : Nat
  analogReads : Nat
  polls : Nat
deriving DecidableEq, Repr

/-- Whether the block is idle or its CONFIGURE is in the wait loop of R77 (R141, R145; log 5). -/
inductive Phase where
  | idle
  | calibrating
deriving DecidableEq, Repr

/-- The whole machine. Registers are unsigned numbers; their widths are `State.RegisterWidths`
(log 2). -/
@[ext]
structure State where
  /-- the static parameters (R4), which no step writes -/
  par : Params
  /-- `btn_words[j]` (R10) -/
  btnWords : List Nat
  /-- `data_pots[k]` (R12) -/
  dataPots : List Nat
  /-- `cal_min[k]` (R13) -/
  calMin : List Nat
  /-- `cal_max[k]` (R13) -/
  calMax : List Nat
  /-- `cfg_done` (R15) -/
  cfgDone : Bool
  /-- the transient `csum` (R16) -/
  csum : Checksum
  /-- the response port `rsp_data` (R46) -/
  rspData : Nat
  /-- the command in progress, if it is CONFIGURE waiting (R77, R141) -/
  phase : Phase
  /-- what the host does next (R17, R42) -/
  host : List HostEvent
  /-- the environment's answers (R123, R125) -/
  env : Env
  /-- how many free values have been drawn for `csum` and `rspData` -/
  draws : Nat
  /-- "the ordered record of all environment transactions made" (R116), oldest first -/
  record : List Transaction
deriving DecidableEq, Repr

/-- Why a step stops with a fault. -/
inductive Fault where
  /-- Raised by SAMPLE when it would evaluate `remap` with `mn = mx` on channel `k`: "must treat
  it as a fault, not as a value" (R82 (iv), U11). Unreachable by R14. Safe: the model stops where
  the spec gives no value. -/
  | degeneratePair (k : Nat)
deriving DecidableEq, Repr

/-- Why a step has no meaning. -/
inductive Refusal where
  /-- An instruction `exec` gives no meaning yet; raised by no arm of the finished model. Safe. -/
  | notModelled (mnemonic : String)
  /-- Raised by the fetch when the parameters break R6: "a model refuses it". Safe: such a set
  "does not describe a block of this kind". -/
  | malformedParameters
deriving DecidableEq, Repr

/-- An environment that lists no answer and has given none (log 3). -/
def Env.none : Env where
  digital := []
  analog := []
  done := []
  digitalReads := 0
  analogReads := 0
  polls := 0

/-- The block with parameters `p` right after reset (R22, R135): every register 0, `cfg_done`
0, idle, no transaction made. The values of `csum` (log 8), `rspData` (log 9) and the model's own
fields (logs 3, 6, 10) are DESIGN CHOICE. -/
def State.resetWith (p : Params) : State where
  par := p
  btnWords := List.replicate p.nw 0
  dataPots := List.replicate p.P 0
  calMin := List.replicate p.calCount 0
  calMax := List.replicate p.calCount 0
  cfgDone := false
  csum := 0#16
  rspData := 0
  phase := .idle
  host := []
  env := Env.none
  draws := 0
  record := []

/-- The machine right after reset, with the parameter set of log 1. -/
def State.reset : State := State.resetWith Params.reference

end Sys2Proof.Machine
end

