-- ==== Sys2Proof/Machine/Ops.lean ====
section
/-! DEFINITION. The shared operations: loops, register writes, environment transactions, free
values, the response port and the reset input. The spec has no exception to take or return from
(R120, R128), so no operation here enters a handler. -/

namespace Sys2Proof.Machine

/-- `for k in 0..n-1: f k`, in ascending order (spec/00_scope.md section 6). -/
def forUp (n : Nat) (f : Nat → State → State) (s : State) : State :=
  match n with
  | 0 => s
  | m + 1 => f m (forUp m f s)

/-- `for k in 0..n-1: f k` where a pass may stop with a fault. -/
def forUpFault (n : Nat) (f : Nat → State → Except Fault State) (s : State) : Except Fault State :=
  match n with
  | 0 => .ok s
  | m + 1 =>
    match forUpFault m f s with
    | .ok t => f m t
    | .error e => .error e

/-- The code of a pin mode (R55). -/
def PinMode.code (m : PinMode) : BitVec 2 :=
  match m with
  | .inputPullup => 0#2
  | .inputPulldown => 1#2
  | .analogInput => 2#2

/-- The code of a diagnostic kind (R54). -/
def DiagKind.code (k : DiagKind) : BitVec 2 :=
  match k with
  | .prompt => 0#2
  | .degenerate => 1#2
  | .cal => 2#2

/-- `btn_words[j] <- v`, on the `W` bits of the register (R10). -/
def State.setWord (s : State) (j v : Nat) : State :=
  { s with btnWords := s.btnWords.set j (v % 2 ^ s.par.W) }

/-- `data_pots[k] <- v`, on the `8V` bits of the register (R12). -/
def State.setPot (s : State) (k v : Nat) : State :=
  { s with dataPots := s.dataPots.set k (v % 2 ^ (8 * s.par.V)) }

/-- `cal_min[k] <- v`, on the `C` bits of the register (R13). -/
def State.setCalMin (s : State) (k v : Nat) : State :=
  { s with calMin := s.calMin.set k (v % 2 ^ s.par.C) }

/-- `cal_max[k] <- v`, on the `C` bits of the register (R13). -/
def State.setCalMax (s : State) (k v : Nat) : State :=
  { s with calMax := s.calMax.set k (v % 2 ^ s.par.C) }

/-- Button word `j` (R10). -/
def State.word (s : State) (j : Nat) : Nat := s.btnWords.getD j 0

/-- Potentiometer value `k` (R12). -/
def State.pot (s : State) (k : Nat) : Nat := s.dataPots.getD k 0

/-- `cal_min[k]` (R13). -/
def State.minOf (s : State) (k : Nat) : Nat := s.calMin.getD k 0

/-- `cal_max[k]` (R13). -/
def State.maxOf (s : State) (k : Nat) : Nat := s.calMax.getD k 0

/-- The environment's answer to the `k`-th `read_digital` from now (R123; log 3). -/
def Env.digitalAnswer (e : Env) (k : Nat) : Bool :=
  e.digital.getD k (Config.freeDigital (e.digitalReads + k))

/-- The environment's answer to the `k`-th `read_analog` from now, on the `C`-bit path of R123
(logs 3, 4). -/
def Env.analogAnswer (e : Env) (c k : Nat) : Nat :=
  e.analog.getD k (Config.freeAnalog (e.analogReads + k)) % 2 ^ c

/-- The environment's answer to the `k`-th `diag_in_avail` from now (R125; log 3). -/
def Env.doneAnswer (e : Env) (k : Nat) : Bool :=
  e.done.getD k (Config.freeDone (e.polls + k))

/-- The environment after `n` more `read_digital`. -/
def Env.afterDigital (e : Env) (n : Nat) : Env :=
  { e with digital := e.digital.drop n, digitalReads := e.digitalReads + n }

/-- The environment after `n` more `read_analog`. -/
def Env.afterAnalog (e : Env) (n : Nat) : Env :=
  { e with analog := e.analog.drop n, analogReads := e.analogReads + n }

/-- The environment after `n` more `diag_in_avail`. -/
def Env.afterPolls (e : Env) (n : Nat) : Env :=
  { e with done := e.done.drop n, polls := e.polls + n }

/-- A `configure_pin` (R123). -/
def Transaction.isConfigurePin (x : Transaction) : Bool :=
  match x with
  | .configurePin _ _ => true
  | .readDigital _ _ => false
  | .readAnalog _ _ => false
  | .sinkWrite _ => false
  | .diagEmit _ => false
  | .diagInAvail _ => false

/-- A `read_digital` (R123). -/
def Transaction.isReadDigital (x : Transaction) : Bool :=
  match x with
  | .configurePin _ _ => false
  | .readDigital _ _ => true
  | .readAnalog _ _ => false
  | .sinkWrite _ => false
  | .diagEmit _ => false
  | .diagInAvail _ => false

/-- A `read_analog` (R123). -/
def Transaction.isReadAnalog (x : Transaction) : Bool :=
  match x with
  | .configurePin _ _ => false
  | .readDigital _ _ => false
  | .readAnalog _ _ => true
  | .sinkWrite _ => false
  | .diagEmit _ => false
  | .diagInAvail _ => false

/-- A `sink_write` (R124). -/
def Transaction.isSinkWrite (x : Transaction) : Bool :=
  match x with
  | .configurePin _ _ => false
  | .readDigital _ _ => false
  | .readAnalog _ _ => false
  | .sinkWrite _ => true
  | .diagEmit _ => false
  | .diagInAvail _ => false

/-- A `diag_in_avail` (R125). -/
def Transaction.isPoll (x : Transaction) : Bool :=
  match x with
  | .configurePin _ _ => false
  | .readDigital _ _ => false
  | .readAnalog _ _ => false
  | .sinkWrite _ => false
  | .diagEmit _ => false
  | .diagInAvail _ => true

/-- The environment after it has answered the reads and polls among the transactions `l`. -/
def Env.afterAll (e : Env) (l : List Transaction) : Env :=
  ((e.afterDigital (l.countP Transaction.isReadDigital)).afterAnalog
    (l.countP Transaction.isReadAnalog)).afterPolls (l.countP Transaction.isPoll)

/-- The record with one more transaction (R116). -/
def State.note (s : State) (t : Transaction) : State := { s with record := s.record ++ [t] }

/-- `configure_pin(id, mode)` (R123). -/
def configurePin (id : PinId) (mode : PinMode) (s : State) : State := s.note (.configurePin id mode)

/-- `sink_write(b)` (R124). -/
def sinkWrite (b : Byte) (s : State) : State := s.note (.sinkWrite b)

/-- `diag_emit(e)` (R125). -/
def diagEmit (e : DiagEvent) (s : State) : State := s.note (.diagEmit e)

/-- `read_digital(id)` (R123): the answer and the state after it. -/
def readDigital (id : PinId) (s : State) : Bool × State :=
  (s.env.digitalAnswer 0,
    { s with env := s.env.afterDigital 1 }.note (.readDigital id (s.env.digitalAnswer 0)))

/-- `read_analog(id)` (R123): the answer and the state after it. -/
def readAnalog (id : PinId) (s : State) : Nat × State :=
  (s.env.analogAnswer s.par.C 0,
    { s with env := s.env.afterAnalog 1 }.note (.readAnalog id (s.env.analogAnswer s.par.C 0)))

/-- `diag_in_avail()` (R125): the answer and the state after it. It does not consume the byte
(R37), so the next poll has an answer of its own. -/
def diagInAvail (s : State) : Bool × State :=
  (s.env.doneAnswer 0,
    { s with env := s.env.afterPolls 1 }.note (.diagInAvail (s.env.doneAnswer 0)))

/-- `rsp_data <- v`, zero-extended to `RW` bits (R46). -/
def State.respond (s : State) (v : Nat) : State := { s with rspData := v }

/-- A command that returns nothing leaves `rsp_data` unspecified (R46): a free value of `RW`
bits (log 9). -/
def State.noResponse (s : State) : State :=
  { s with rspData := Config.freeRspData s.draws % 2 ^ s.par.rspWidth, draws := s.draws + 1 }

/-- `csum` between commands is unspecified (R16): a free value (log 8). -/
def State.releaseCsum (s : State) : State :=
  { s with csum := Config.freeCsum s.draws, draws := s.draws + 1 }

/-- The reset input (R135, R136): every register takes its reset value and no transaction is
made; the parameters, the host, the environment and the record of what happened are not
registers. `csum` (R22) and `rsp_data` (R46) are unspecified. -/
def hostReset (s : State) : State :=
  ({ State.resetWith s.par with
      host := s.host, env := s.env, record := s.record, draws := s.draws }).releaseCsum.noResponse

/-- The reset input asserted inside a command or a pass of the calibration wait that would take `s`
to `t`, once it has made `n` of its transactions: "the registers still take their reset values, but
the environment has seen a prefix of the command's transactions" (R146; log 11). -/
def cutShort (n : Nat) (s t : State) : State :=
  let made := (t.record.drop s.record.length).take n
  hostReset { s with record := s.record ++ made, env := s.env.afterAll made }

/-- The outcome of a command that the reset input cuts after `n` transactions (R146). -/
def cutOutcome (n : Nat) (s : State) (o : Host.Outcome State Fault Refusal) :
    Host.Outcome State Fault Refusal :=
  match o with
  | .next t => .next (cutShort n s t)
  | .fault e => .fault e
  | .refused r => .refused r

end Sys2Proof.Machine
end

