-- ==== Sys2Proof/Machine/Operands.lean ====
section
/-! DEFINITION. The index operands: which register an index selects (R20, R39, R48), and what an
index out of its range does: "a read returns 0 and changes nothing, a write changes nothing"
(R34). -/

namespace Sys2Proof.Machine

/-- A calibration register: `cal_min[k]` or `cal_max[k]` (R39). -/
inductive CalRegister where
  | min (k : Nat)
  | max (k : Nat)
deriving DecidableEq, Repr

/-- The button word that index `j` selects, if `j < NW` (R20). -/
def wordOperand (p : Params) (j : Idx) : Option Nat := if j.toNat < p.nw then some j.toNat else none

/-- The channel that index `k` selects, if `k < P` (R20). -/
def channelOperand (p : Params) (k : Idx) : Option Nat := if k.toNat < p.P then some k.toNat else none

/-- The calibration register that entry index `e` selects: `e = 2k` is `cal_min[k]`,
`e = 2k+1` is `cal_max[k]`; none when the table is absent or `e >= 2P` (R39, R86). -/
def calOperand (p : Params) (e : Idx) : Option CalRegister :=
  if p.calEn = true ∧ e.toNat < 2 * p.P then
    if e.toNat % 2 = 0 then some (.min (e.toNat / 2)) else some (.max (e.toNat / 2))
  else none

/-- The value RDWORD returns for index `j` (R68, R34). -/
def State.readWordOperand (s : State) (j : Idx) : Nat :=
  match wordOperand s.par j with
  | some n => s.word n
  | none => 0

/-- The value RDPOT returns for index `k` (R85, R34). -/
def State.readPotOperand (s : State) (k : Idx) : Nat :=
  match channelOperand s.par k with
  | some n => s.pot n
  | none => 0

/-- The value RDCAL returns for entry `e` (R86, R34). -/
def State.readCalOperand (s : State) (e : Idx) : Nat :=
  match calOperand s.par e with
  | some (.min k) => s.minOf k
  | some (.max k) => s.maxOf k
  | none => 0

/-- The write WRCAL makes to entry `e` (R87, R34). -/
def State.writeCalOperand (s : State) (e : Idx) (v : Nat) : State :=
  match calOperand s.par e with
  | some (.min k) => s.setCalMin k v
  | some (.max k) => s.setCalMax k v
  | none => s

end Sys2Proof.Machine
end

