-- ==== Sys2Proof/Machine/Buttons.lean ====
section
/-! DEFINITION. The button unit (spec/40_buttons.md): polarity, BTN.CONFIGURE, BTN.SAMPLE and
RDWORD. -/

namespace Sys2Proof.Machine

/-- The active state of a pin reading, `true` being electrical HIGH (R66). -/
def active (pol : Polarity) (v : Bool) : Bool :=
  match pol with
  | .pullup => !v
  | .pulldown => v

/-- The pin mode of every button pin, "derived from the polarity flag" (R55, R65). -/
def buttonMode (pol : Polarity) : PinMode :=
  match pol with
  | .pullup => .inputPullup
  | .pulldown => .inputPulldown

/-- BTN.CONFIGURE (R65). -/
def btnConfigure (s : State) : State :=
  forUp s.par.B (fun i => configurePin (s.par.btnPinAt i) (buttonMode s.par.pol)) s

/-- "clears all words to zero", the first loop of BTN.SAMPLE (R67). -/
def btnClear (s : State) : State := forUp s.par.nw (fun j t => t.setWord j 0) s

/-- `btn_words[i div W][i mod W] <- 1`, "other bits of the word unchanged" (R67). -/
def setButton (i : Nat) (s : State) : State :=
  s.setWord (i / s.par.W) (s.word (i / s.par.W) ||| 2 ^ (i % s.par.W))

/-- One pass of BTN.SAMPLE: read button `i` and set its bit if it is active (R67). -/
def sampleButton (i : Nat) (s : State) : State :=
  match readDigital (s.par.btnPinAt i) s with
  | (v, t) => if active s.par.pol v then setButton i t else t

/-- BTN.SAMPLE (R67). -/
def btnSample (s : State) : State := forUp s.par.B sampleButton (btnClear s)

/-- `RDWORD j` (R68). -/
def execRdword (j : Idx) (s : State) : Host.Outcome State Fault Refusal :=
  .next (s.respond (s.readWordOperand j))

end Sys2Proof.Machine
end

