-- ==== Sys2Proof/Machine/Frame.lean ====
section
/-! DEFINITION. The frame encoder (spec/42_frame_encoder.md): header, drain, checksum, trailer. -/

namespace Sys2Proof.Machine

/-- `PUT(b)`: write the byte and subtract it from the 16-bit accumulator (R95, R99). -/
def put (b : Byte) (s : State) : State :=
  { sinkWrite b s with csum := s.csum - b.setWidth 16 }

/-- One pass of DRAIN.WORD(j): emit the low byte, shift right by 8 (R97). -/
def drainWordByte (j : Nat) (s : State) : State :=
  (put (BitVec.ofNat 8 (s.word j)) s).setWord j (s.word j >>> 8)

/-- DRAIN.WORD(j) (R97). -/
def drainWord (j : Nat) (s : State) : State := forUp s.par.wb (fun _ => drainWordByte j) s

/-- One pass of DRAIN.POT(k) (R98). -/
def drainPotByte (k : Nat) (s : State) : State :=
  (put (BitVec.ofNat 8 (s.pot k)) s).setPot k (s.pot k >>> 8)

/-- DRAIN.POT(k) (R98). -/
def drainPot (k : Nat) (s : State) : State := forUp s.par.V (fun _ => drainPotByte k) s

/-- The header: the accumulator starts at `0xFFFF`, then `PUT(L)` and `PUT(0x40)` (R95, R96). -/
def putHeader (s : State) : State :=
  put frameTag (put (BitVec.ofNat 8 s.par.frameLen) { s with csum := csumInit })

/-- The trailer: the accumulator, low byte first (R100). -/
def putTrailer (s : State) : State :=
  sinkWrite (s.csum.extractLsb' 8 8) (sinkWrite (s.csum.extractLsb' 0 8) s)

/-- ENCODE (R95); afterwards `csum` is unspecified (R16). -/
def encodeFrame (s : State) : State :=
  (putTrailer (forUp s.par.P drainPot (forUp s.par.nw drainWord (putHeader s)))).releaseCsum

end Sys2Proof.Machine
end

