-- ==== Sys2Proof/Machine/Flags.lean ====
section
/-! DEFINITION. The block's one flag, `cfg_done`, and the two gates on it (R15). "There are no
other flags" (R18): the clamp of the remapper and the wrap of the checksum set none. -/

namespace Sys2Proof.Machine

/-- `cfg_done <- 1`, "the last action of every CONFIGURE" (R15, R111). -/
def State.setConfigured (s : State) : State := { s with cfgDone := true }

/-- SAMPLE has its effect when `cfg_done = 1` (R15, R112). -/
def State.sampleOpen (s : State) : Bool := s.cfgDone

/-- WRCAL has its effect when `cfg_done = 0` (R15, R87). -/
def State.tableOpen (s : State) : Bool := !s.cfgDone

end Sys2Proof.Machine
end

