-- ==== Sys2Proof/Machine/Pots.lean ====
section
/-! DEFINITION. The potentiometer unit (spec/41_pots_calibration.md): calibration, the remapper,
POT.CONFIGURE, POT.SAMPLE, and RDPOT, RDCAL, WRCAL. -/

namespace Sys2Proof.Machine

/-- The pin half of POT.CONFIGURE (R75). -/
def potPins (s : State) : State :=
  forUp s.par.P (fun k => configurePin (s.par.potPinAt k) .analogInput) s

/-- Whether "no calibration table was supplied, or the supplied table is all-zero" (R75). -/
def tableAllZero (s : State) : Bool := s.calMin.all (· == 0) && s.calMax.all (· == 0)

/-- One pass of AUTOCAL.INIT (R76). -/
def autocalInitChannel (k : Nat) (s : State) : State :=
  (s.setCalMin k s.par.unsignedMax).setCalMax k 0

/-- AUTOCAL.INIT (R76). -/
def autocalInit (s : State) : State := forUp s.par.P autocalInitChannel s

/-- The prompt that begins AUTOCAL.DISCOVER (R77). -/
def autocalPrompt (s : State) : State := diagEmit ⟨.prompt, 0, 0, 0⟩ s

/-- CAL.UPDATE for one sample `x` of a channel whose pair is `(mn, mx)`: an if / else-if (R78). -/
def calUpdatePair (x mn mx : Nat) : Nat × Nat :=
  if x < mn then (x, mx) else if mx < x then (mn, x) else (mn, mx)

/-- CAL.UPDATE(k, x) (R78). -/
def calUpdate (k x : Nat) (s : State) : State :=
  if x < s.minOf k then s.setCalMin k x
  else if s.maxOf k < x then s.setCalMax k x
  else s

/-- One pass of a sweep: sample channel `k` and update its pair (R77). -/
def sweepChannel (k : Nat) (s : State) : State :=
  match readAnalog (s.par.potPinAt k) s with
  | (x, t) => calUpdate k x t

/-- One sweep of AUTOCAL.DISCOVER: "a sweep, once begun, reads all `P` channels in ascending
order" (R77). -/
def sweep (s : State) : State := forUp s.par.P sweepChannel s

/-- One pass of CAL.CORRECT: a degenerate pair becomes `(0, MAX_RAW)` and is reported (R79, R121). -/
def calCorrectChannel (k : Nat) (s : State) : State :=
  if s.minOf k = s.maxOf k then
    diagEmit ⟨.degenerate, k, 0, 0⟩ ((s.setCalMin k 0).setCalMax k s.par.maxRaw)
  else s

/-- CAL.CORRECT (R79). -/
def calCorrect (s : State) : State := forUp s.par.P calCorrectChannel s

/-- One pass of AUTOCAL.REPORT (R80). -/
def autocalReportChannel (k : Nat) (s : State) : State := diagEmit ⟨.cal, k, s.minOf k, s.maxOf k⟩ s

/-- AUTOCAL.REPORT (R80). -/
def autocalReport (s : State) : State := forUp s.par.P autocalReportChannel s

/-- Whether POT.CONFIGURE finds a calibration table to settle (R75). -/
def hasTable (p : Params) : Bool := decide (0 < p.P) && p.calEn

/-- The linear remap of one raw sample onto `[0, R]`: exact integers, floor division, saturation
at both ends (R81, R82). `none` when `mn = mx`, where the rule gives no value (R82 (iv)). -/
def remap (r raw mn mx : Nat) : Option Nat :=
  if mn = mx then none
  else
    let q := Int.fdiv (((raw : Int) - mn) * r) ((mx : Int) - mn)
    if (r : Int) < q then some r else if q < 0 then some 0 else some q.toNat

/-- `data_pots[k] <- 0` for every channel, the first loop of POT.SAMPLE (R83). -/
def potClear (s : State) : State := forUp s.par.P (fun k t => t.setPot k 0) s

/-- One pass of POT.SAMPLE with calibration: read channel `k`, remap and store (R83). -/
def sampleChannelRemapped (k : Nat) (s : State) : Except Fault State :=
  match readAnalog (s.par.potPinAt k) s with
  | (raw, t) =>
    match remap s.par.R raw (s.minOf k) (s.maxOf k) with
    | some q => .ok (t.setPot k q)
    | none => .error (.degeneratePair k)

/-- One pass of POT.SAMPLE without calibration: the raw sample's low `8V` bits (R84). -/
def sampleChannelRaw (k : Nat) (s : State) : Except Fault State :=
  match readAnalog (s.par.potPinAt k) s with
  | (raw, t) => .ok (t.setPot k raw)

/-- POT.SAMPLE (R83 when `CAL_EN`, R84 when not). -/
def potSample (s : State) : Except Fault State :=
  forUpFault s.par.P (if s.par.calEn then sampleChannelRemapped else sampleChannelRaw) (potClear s)

/-- `RDPOT k` (R85). -/
def execRdpot (k : Idx) (s : State) : Host.Outcome State Fault Refusal :=
  .next (s.respond (s.readPotOperand k))

/-- `RDCAL e` (R86). -/
def execRdcal (e : Idx) (s : State) : Host.Outcome State Fault Refusal :=
  .next (s.respond (s.readCalOperand e))

/-- `WRCAL e, v` (R87): the write while `cfg_done = 0`, otherwise no effect. -/
def execWrcal (e : Idx) (v : Nat) (s : State) : Host.Outcome State Fault Refusal :=
  .next ((if s.tableOpen then s.writeCalOperand e v else s).noResponse)

end Sys2Proof.Machine
end

