-- ==== Sys2Proof/Machine/Sampler.lean ====
section
/-! DEFINITION. The Sampler (spec/43_sampler_commands.md): NOP, CONFIGURE, SAMPLE and EMIT, and the
wait loop of a CONFIGURE that auto-calibrates (R77, R141). -/

namespace Sys2Proof.Machine

/-- `NOP` (R110). -/
def execNop (s : State) : Host.Outcome State Fault Refusal := .next s.noResponse

/-- The last action of CONFIGURE (R15, R111): `cfg_done <- 1`, and the block is idle again. -/
def finishConfigure (s : State) : State := { s.setConfigured with phase := .idle }.noResponse

/-- AUTOCAL.INIT and the prompt, after which CONFIGURE is in the wait loop (R75, R76, R77). -/
def beginAutocal (s : State) : State := { autocalPrompt (autocalInit s) with phase := .calibrating }

/-- `CONFIGURE` (R111, R65, R75). Where it auto-calibrates it enters the wait loop of R77, whose
passes are the steps of `calibrationStep` (log 5). -/
def execConfigure (s : State) : Host.Outcome State Fault Refusal :=
  let t := potPins (btnConfigure s)
  if hasTable s.par then
    if tableAllZero s then .next (beginAutocal t) else .next (finishConfigure (calCorrect t))
  else .next (finishConfigure t)

/-- The end of an auto-calibration: CAL.CORRECT, AUTOCAL.REPORT and the end of CONFIGURE (R75). -/
def endAutocal (s : State) : State := finishConfigure (autocalReport (calCorrect s))

/-- One pass of the loop of AUTOCAL.DISCOVER: poll the done signal, then either one sweep or the
end of CONFIGURE (R77). -/
def calibrationStep (s : State) : State :=
  match diagInAvail s with
  | (true, t) => endAutocal t
  | (false, t) => sweep t

/-- `SAMPLE` (R112): nothing while `cfg_done = 0`. -/
def execSample (s : State) : Host.Outcome State Fault Refusal :=
  if s.sampleOpen then
    match potSample (btnSample s) with
    | .ok t => .next t.noResponse
    | .error e => .fault e
  else .next s.noResponse

/-- `EMIT` (R113). -/
def execEmit (s : State) : Host.Outcome State Fault Refusal := .next (encodeFrame s).noResponse

end Sys2Proof.Machine
end

