-- ==== Sys2Proof/Machine/Dispatch.lean ====
section
/-! DEFINITION. The dispatch of R47: one arm per command, each one call of its meaning. -/

namespace Sys2Proof.Machine

def exec (i : Instr) (s : State) : Host.Outcome State Fault Refusal :=
  match i with
  | .nop => Sys2Proof.Machine.execNop s
  | .configure => Sys2Proof.Machine.execConfigure s
  | .sample => Sys2Proof.Machine.execSample s
  | .emit => Sys2Proof.Machine.execEmit s
  | .rdword j => Sys2Proof.Machine.execRdword j s
  | .rdpot k => Sys2Proof.Machine.execRdpot k s
  | .rdcal e => Sys2Proof.Machine.execRdcal e s
  | .wrcal e v => Sys2Proof.Machine.execWrcal e v s

end Sys2Proof.Machine
end

