-- ==== Sys2Proof/Machine/Sequencer.lean ====
section
/-! DEFINITION. What the block does next: the host's command stream in place of an instruction
fetch (R17, R42), the reset input (R135, R146), and the wait of a CONFIGURE, during which no command is
accepted (R141, R145). -/

namespace Sys2Proof.Machine

/-- What one step does. -/
inductive Fetched where
  /-- the parameters break R6 -/
  | malformed
  /-- no command is issued and the block stays idle (R17) -/
  | idle (s : State)
  /-- the reset input is asserted (R135) -/
  | reset (s : State)
  /-- one pass of the calibration loop (R77) -/
  | calibrate (s : State)
  /-- the reset input is asserted while CONFIGURE waits (R141, R146) -/
  | cutPass (n : Nat) (s : State)
  /-- the host issues a command (R45) -/
  | run (i : Instr) (s : State)
  /-- the host issues a command and the reset input is asserted inside it (R146) -/
  | cutRun (i : Instr) (n : Nat) (s : State)
deriving DecidableEq, Repr

/-- What an idle block does with the host's next event (R8, R17). -/
def fetchIdle (s : State) : Fetched :=
  match s.host with
  | [] => .idle s
  | .pause :: rest => .idle { s with host := rest }
  | .reset _ :: rest => .reset { s with host := rest }
  | .command w :: rest => .run (decodeWord s.par.C w) { s with host := rest }
  | .interrupted w n :: rest => .cutRun (decodeWord s.par.C w) n { s with host := rest }

/-- What a waiting CONFIGURE does with the host's next event: a command is not accepted and stays
with the host (R145); "only reset ends it", before, inside or after a pass (R141, R146; log 11). -/
def fetchCalibrating (s : State) : Fetched :=
  match s.host with
  | [] => .calibrate s
  | .pause :: rest => .calibrate { s with host := rest }
  | .reset n :: rest => .cutPass n { s with host := rest }
  | .command _ :: _ => .calibrate s
  | .interrupted _ _ :: _ => .calibrate s

/-- What the next step does. A parameter set that breaks R6 is refused (R6). -/
def fetch (s : State) : Fetched :=
  if s.par.Wf then
    match s.phase with
    | .idle => fetchIdle s
    | .calibrating => fetchCalibrating s
  else .malformed

/-- The state whose next step fetches the table word `w` of `nbits` bits (logs 6, 19). -/
def placeCommand (nbits w : Nat) (s : State) : State :=
  { s with phase := .idle, host := .command (w % 2 ^ nbits) :: s.host }

end Sys2Proof.Machine
end

