-- ==== Sys2Proof/Machine/Step.lean ====
section
/-! DEFINITION. One step of the machine: a command, a reset, one pass of the calibration wait, or
an idle step. -/

namespace Sys2Proof.Machine

/-- One step (R8, R77, R116, R146). -/
def step (s : State) : Host.Outcome State Fault Refusal :=
  match fetch s with
  | .malformed => .refused .malformedParameters
  | .idle t => .next t
  | .reset t => .next (hostReset t)
  | .calibrate t => .next (calibrationStep t)
  | .cutPass n t => cutOutcome n t (.next (calibrationStep t))
  | .run i t => exec i t
  | .cutRun i n t => cutOutcome n t (exec i t)

/-- The state whose next step runs the command of the table word `w` (logs 6, 19). -/
def State.withFetchWord (s : State) (nbits w : Nat) : State := placeCommand nbits w s

end Sys2Proof.Machine
end

