-- ==== Sys2Proof/Safety.lean ====
section
/-! DEFINITION. What the claims speak about: the invariant of a legal state, and the spec's own
closed forms (the packing law R70, the remap formula R81, the frame R38 and its checksum R99, the
calibration pairs R90), written from the rules and not from the machine's loops. -/

namespace Sys2Proof.Machine

/-- Every register array has as many registers as R10, R12 and R13 give it. -/
abbrev State.RegisterCounts (s : State) : Prop :=
  s.btnWords.length = s.par.nw ∧ s.dataPots.length = s.par.P ∧
    s.calMin.length = s.par.calCount ∧ s.calMax.length = s.par.calCount

/-- Every register holds a value of its width (R10, R12, R13, R46). -/
abbrev State.RegisterWidths (s : State) : Prop :=
  (∀ v ∈ s.btnWords, v < 2 ^ s.par.W) ∧ (∀ v ∈ s.dataPots, v < 2 ^ (8 * s.par.V)) ∧
    (∀ v ∈ s.calMin, v < 2 ^ s.par.C) ∧ (∀ v ∈ s.calMax, v < 2 ^ s.par.C) ∧
    s.rspData < 2 ^ s.par.rspWidth

/-- The button bank invariant: "unused high bits of the last word are always 0" (R11). -/
abbrev State.UnusedBitsZero (s : State) : Prop :=
  ∀ b < s.par.W, s.par.B ≤ (s.par.nw - 1) * s.par.W + b → (s.word (s.par.nw - 1)).testBit b = false

/-- A remapped value lies in `[0, R]` (R12). -/
abbrev State.PotsInRange (s : State) : Prop :=
  s.par.calEn = true → ∀ v ∈ s.dataPots, v ≤ s.par.R

/-- The calibration table invariant: with `cfg_done = 1` no pair is degenerate (R14). -/
abbrev State.NoDegeneratePair (s : State) : Prop :=
  s.cfgDone = true → ∀ k < s.par.calCount, s.minOf k ≠ s.maxOf k

/-- Only a CONFIGURE that found a table and has not completed waits (R75, R77, R111). -/
abbrev State.PhaseLegal (s : State) : Prop :=
  s.phase = .calibrating → hasTable s.par = true ∧ s.cfgDone = false

/-- The invariant of a legal state of a legal block. -/
abbrev State.Inv (s : State) : Prop :=
  s.par.Wf ∧ s.RegisterCounts ∧ s.RegisterWidths ∧ s.UnusedBitsZero ∧ s.PotsInRange ∧
    s.NoDegeneratePair ∧ s.PhaseLegal

/-- The next event of the host neither resets the waiting block nor is a pause: there is none, or it
is a command, which a waiting block does not accept (R145). -/
abbrev State.HostWaits (s : State) : Prop :=
  match s.host with
  | [] => True
  | .command _ :: _ => True
  | .interrupted _ _ :: _ => True
  | .reset _ :: _ => False
  | .pause :: _ => False

/-- The word the packing law gives word index `j` for the readings `v` (R70). -/
def packedWord (p : Params) (v : Nat → Bool) (j : Nat) : Nat :=
  ((List.range p.B).map fun i =>
    if i / p.W = j ∧ active p.pol (v i) = true then 2 ^ (i % p.W) else 0).sum

/-- The button bank the packing law gives for the readings `v` (R70). -/
def packedWords (p : Params) (v : Nat → Bool) : List Nat := (List.range p.nw).map (packedWord p v)

/-- The remap formula on rationals: the floor of the quotient, kept in `[0, R]` (R81). -/
def remapFormula (r raw mn mx : Nat) : Nat :=
  (max 0 (min (r : Int) ⌊(((raw : Rat) - mn) * r) / ((mx : Rat) - mn)⌋)).toNat

/-- What POT.SAMPLE stores for channel `k` when the sample is `raw` (R83, R84). -/
def sampledPot (s : State) (raw k : Nat) : Nat :=
  if s.par.calEn then remapFormula s.par.R raw (s.minOf k) (s.maxOf k) else raw % 2 ^ (8 * s.par.V)

/-- The bytes of an `n`-byte field that holds `v`: `v[7:0], v[15:8], ...` (R31, R51). -/
def fieldBytes (n v : Nat) : List Byte := (List.range n).map fun t => BitVec.ofNat 8 (v >>> (8 * t))

/-- The payload: the button words, then the potentiometer values (R38, R50). -/
def payloadBytes (p : Params) (words pots : List Nat) : List Byte :=
  words.flatMap (fieldBytes p.wb) ++ pots.flatMap (fieldBytes p.V)

/-- The sum of bytes as natural numbers (R99). -/
def byteSum (bs : List Byte) : Nat := (bs.map BitVec.toNat).sum

/-- `csum_final = (0xFFFF - S) mod 2^16` (R99). -/
def checksumOf (bs : List Byte) : Checksum := csumInit - BitVec.ofNat 16 (byteSum bs)

/-- The bytes at offsets `0 .. L-3`: length, tag, payload (R38). -/
def summedBytes (p : Params) (words pots : List Nat) : List Byte :=
  BitVec.ofNat 8 p.frameLen :: frameTag :: payloadBytes p words pots

/-- The frame of R38 and R50 for the banks `words` and `pots`. -/
def frameBytes (p : Params) (words pots : List Nat) : List Byte :=
  summedBytes p words pots ++ fieldBytes 2 (checksumOf (summedBytes p words pots)).toNat

/-- The checksum a receiver reads from the last two bytes: `c_lo + 256*c_hi` (R103). -/
def receivedChecksum (f : List Byte) : Nat :=
  (f.getD (f.length - 2) 0).toNat + 256 * (f.getD (f.length - 1) 0).toNat

/-- The verifier's contract, second form (R103). -/
abbrev FrameVerifies (f : List Byte) : Prop :=
  (byteSum (f.take (f.length - 2)) + receivedChecksum f) % 2 ^ 16 = 0xFFFF

/-- The pair of a channel after the first `t` of the samples `x 0, x 1, ...`, starting from
`start` (R78, R90). -/
def pairAfter (start : Nat × Nat) (x : Nat → Nat) (t : Nat) : Nat × Nat :=
  match t with
  | 0 => start
  | n + 1 => calUpdatePair (x n) (pairAfter start x n).1 (pairAfter start x n).2

/-- A pair after CAL.CORRECT: a degenerate pair becomes `(0, MAX_RAW)` (R79). -/
def correctedPair (p : Params) (pair : Nat × Nat) : Nat × Nat :=
  if pair.1 = pair.2 then (0, p.maxRaw) else pair

/-- The pin transactions of a CONFIGURE: buttons, then potentiometers (R65, R75, R111). -/
def configureRecord (p : Params) : List Transaction :=
  (List.range p.B).map (fun i => .configurePin (p.btnPinAt i) (buttonMode p.pol)) ++
    (List.range p.P).map (fun k => .configurePin (p.potPinAt k) .analogInput)

/-- The notices of CAL.CORRECT, one for each degenerate pair, in channel order (R79). -/
def correctRecord (p : Params) (pair : Nat → Nat × Nat) : List Transaction :=
  ((List.range p.P).filter fun k => (pair k).1 = (pair k).2).map fun k =>
    .diagEmit ⟨.degenerate, k, 0, 0⟩

/-- The report of a table, in channel order (R80). -/
def reportRecord (p : Params) (pair : Nat → Nat × Nat) : List Transaction :=
  (List.range p.P).map fun k => .diagEmit ⟨.cal, k, (pair k).1, (pair k).2⟩

/-- The reads of one SAMPLE: buttons, then channels (R67, R83, R112). -/
def sampleRecord (p : Params) (e : Env) : List Transaction :=
  (List.range p.B).map (fun i => .readDigital (p.btnPinAt i) (e.digitalAnswer i)) ++
    (List.range p.P).map (fun k => .readAnalog (p.potPinAt k) (e.analogAnswer p.C k))

/-- The sample of channel `k` in sweep `u`, sweeps and channels in order (R77). -/
def sweepSample (p : Params) (e : Env) (k u : Nat) : Nat := e.analogAnswer p.C (u * p.P + k)

/-- The transactions of sweep `u`: a poll that finds no done signal, then every channel (R77). -/
def sweepRecord (p : Params) (e : Env) (u : Nat) : List Transaction :=
  .diagInAvail false ::
    (List.range p.P).map fun k => .readAnalog (p.potPinAt k) (sweepSample p e k u)

/-- The transactions of one pass of the calibration wait: a poll, then a sweep while the done signal
is absent, or the notices and the report that end CONFIGURE (R77, R79, R80). -/
def passRecord (s : State) : List Transaction :=
  if s.env.doneAnswer 0 = true then
    .diagInAvail true :: (correctRecord s.par (fun k => (s.minOf k, s.maxOf k)) ++
      reportRecord s.par fun k => correctedPair s.par (s.minOf k, s.maxOf k))
  else sweepRecord s.par s.env 0

/-- The pair of channel `k` after `n` sweeps from the state `s` (R77, R78). -/
def sweptPair (s : State) (n k : Nat) : Nat × Nat :=
  pairAfter (s.minOf k, s.maxOf k) (sweepSample s.par s.env k) n

/-- The state a waiting CONFIGURE leaves when the done signal arrives after `n` sweeps: the
corrected table, its notices and report, `cfg_done = 1` (R75 to R80, R111). -/
def calibratedState (s : State) (n : Nat) : State :=
  { s with
    calMin := (List.range s.par.P).map fun k => (correctedPair s.par (sweptPair s n k)).1
    calMax := (List.range s.par.P).map fun k => (correctedPair s.par (sweptPair s n k)).2
    cfgDone := true
    phase := .idle
    env := (s.env.afterPolls (n + 1)).afterAnalog (n * s.par.P)
    record := s.record ++ (List.range n).flatMap (sweepRecord s.par s.env) ++ [.diagInAvail true] ++
      correctRecord s.par (sweptPair s n) ++
      reportRecord s.par fun k => correctedPair s.par (sweptPair s n k) }

/-- The state of a CONFIGURE that has begun to auto-calibrate: pins set, table at
`(UNSIGNED_MAX, 0)`, operator prompted (R65, R75, R76, R77). -/
def calibratingState (s : State) : State :=
  { s with
    calMin := List.replicate s.par.P s.par.unsignedMax
    calMax := List.replicate s.par.P 0
    phase := .calibrating
    record := s.record ++ configureRecord s.par ++ [.diagEmit ⟨.prompt, 0, 0, 0⟩] }

/-- The state a SAMPLE leaves when `cfg_done = 1` (R112, R67, R83, R84). -/
def sampledState (s : State) : State :=
  { s with
    btnWords := packedWords s.par s.env.digitalAnswer
    dataPots := (List.range s.par.P).map fun k => sampledPot s (s.env.analogAnswer s.par.C k) k
    env := (s.env.afterDigital s.par.B).afterAnalog s.par.P
    record := s.record ++ sampleRecord s.par s.env }

/-- The state an EMIT leaves: both banks 0 and one frame on the sink (R95, R101). -/
def emittedState (s : State) : State :=
  { s with
    btnWords := List.replicate s.par.nw 0
    dataPots := List.replicate s.par.P 0
    record := s.record ++ (frameBytes s.par s.btnWords s.dataPots).map .sinkWrite }

/-- The state a CONFIGURE leaves when it does not auto-calibrate but has a table to correct
(R75, R79, R111). -/
def correctedState (s : State) : State :=
  { s with
    calMin := (List.range s.par.P).map fun k => (correctedPair s.par (s.minOf k, s.maxOf k)).1
    calMax := (List.range s.par.P).map fun k => (correctedPair s.par (s.minOf k, s.maxOf k)).2
    cfgDone := true
    phase := .idle
    record := s.record ++ configureRecord s.par ++
      correctRecord s.par fun k => (s.minOf k, s.maxOf k) }

/-- The state a CONFIGURE leaves on a block without a calibration table (R75, R88, R111). -/
def pinsOnlyState (s : State) : State :=
  { s with
    cfgDone := true
    phase := .idle
    record := s.record ++ configureRecord s.par }

/-- `s` with every register at its reset value, the response port and the model's count of free
values aside: what the reset input leaves of `s` when it makes no transaction (R22, R135). -/
def resetRegisters (s : State) : State :=
  { s with
    btnWords := List.replicate s.par.nw 0
    dataPots := List.replicate s.par.P 0
    calMin := List.replicate s.par.calCount 0
    calMax := List.replicate s.par.calCount 0
    cfgDone := false
    phase := .idle }

/-- The frame of a byte sequence whose payload is all zero: what R102 says a second EMIT sends. -/
def zeroFrame (p : Params) : List Byte :=
  [BitVec.ofNat 8 p.frameLen, frameTag] ++ List.replicate (p.frameLen - 4) 0#8 ++
    fieldBytes 2 (0xFFFF - p.frameLen - 0x40)

/-- Which transactions a command may make: pins and diagnostics by CONFIGURE (R65, R75, R125), pin
reads by SAMPLE (R123), sink writes by EMIT (R124), none by the others. The polls and reads of a
calibration are made by the steps of the wait (`WaitMayMake`). -/
def CommandMayMake (i : Instr) (x : Transaction) : Prop :=
  match i with
  | .nop => False
  | .configure => (∃ id m, x = .configurePin id m) ∨ ∃ e, x = .diagEmit e
  | .sample => (∃ id v, x = .readDigital id v) ∨ ∃ id v, x = .readAnalog id v
  | .emit => ∃ b, x = .sinkWrite b
  | .rdword _ => False
  | .rdpot _ => False
  | .rdcal _ => False
  | .wrcal _ _ => False

/-- Which transactions a step of the calibration wait may make (R77, R79, R80). -/
def WaitMayMake (x : Transaction) : Prop :=
  (∃ v, x = .diagInAvail v) ∨ (∃ id v, x = .readAnalog id v) ∨ ∃ e, x = .diagEmit e

/-- The commands that return a value on the response port (R46). -/
def returnsValue (i : Instr) : Bool :=
  match i with
  | .nop => false
  | .configure => false
  | .sample => false
  | .emit => false
  | .rdword _ => true
  | .rdpot _ => true
  | .rdcal _ => true
  | .wrcal _ _ => false

/-- `t` is `u` in everything the spec specifies after a command that returns nothing: they may
differ in `rsp_data`, unspecified then (R46), and in the model's count of free values. -/
abbrev State.Unanswered (t u : State) : Prop := t = { u with rspData := t.rspData, draws := t.draws }

/-- `t` is `u` in everything the spec specifies after an EMIT: they may also differ in `csum`,
unspecified between commands (R16). -/
abbrev State.UnansweredNoCsum (t u : State) : Prop :=
  t = { u with csum := t.csum, rspData := t.rspData, draws := t.draws }

end Sys2Proof.Machine
end

