-- ==== Sys2Proof/Certificates/Slice0/Obligations.lean ====
section
/-! DEFINITION. The statements for the provers, from the numbered rules of spec/. Where a rule leaves
a value unspecified (`rsp_data` after a command that returns nothing, R46; `csum` after an EMIT,
R16) a statement leaves the value out: it says the state "up to" it (`State.Unanswered`). -/

open Sys2Proof Sys2Proof.Machine

/-! ### The command word -/

/-- R47, R48, R49: the eight codes; `idx` and `v` used as they stand; the fields a format does not
use ignored, whatever they hold. -/
def Obligations.EveryCodeDecodes : Prop :=
  ∀ (c : Nat) (idx : Idx) (v : Nat), v < 2 ^ c →
    decodeWord c (v * 2 ^ 12 + idx.toNat * 2 ^ 3 + 0b000) = .nop ∧
    decodeWord c (v * 2 ^ 12 + idx.toNat * 2 ^ 3 + 0b001) = .configure ∧
    decodeWord c (v * 2 ^ 12 + idx.toNat * 2 ^ 3 + 0b010) = .sample ∧
    decodeWord c (v * 2 ^ 12 + idx.toNat * 2 ^ 3 + 0b011) = .emit ∧
    decodeWord c (v * 2 ^ 12 + idx.toNat * 2 ^ 3 + 0b100) = .rdword idx ∧
    decodeWord c (v * 2 ^ 12 + idx.toNat * 2 ^ 3 + 0b101) = .rdpot idx ∧
    decodeWord c (v * 2 ^ 12 + idx.toNat * 2 ^ 3 + 0b110) = .rdcal idx ∧
    decodeWord c (v * 2 ^ 12 + idx.toNat * 2 ^ 3 + 0b111) = .wrcal idx v

/-- The command words of the programs of spec/95_test_vectors.md section 3, for C = 16. -/
def Obligations.ProgramsOfTheSpecDecode : Prop :=
  decodeWord 16 0x0000001 = .configure ∧ decodeWord 16 0x0000002 = .sample ∧
    decodeWord 16 0x0000003 = .emit ∧ decodeWord 16 0x0000004 = .rdword 0#9 ∧
    decodeWord 16 0x0000005 = .rdpot 0#9 ∧ decodeWord 16 0x0000006 = .rdcal 0#9 ∧
    decodeWord 16 0x000000E = .rdcal 1#9 ∧ decodeWord 16 0x0000016 = .rdcal 2#9 ∧
    decodeWord 16 0x000001E = .rdcal 3#9 ∧ decodeWord 16 0x0064007 = .wrcal 0#9 100 ∧
    decodeWord 16 0x044C00F = .wrcal 1#9 1100 ∧ decodeWord 16 0x0005007 = .wrcal 0#9 5

/-- Decode and encode agree on every well-formed command, at every width of the data field. -/
def Obligations.DecodeInvertsEncode : Prop :=
  ∀ (c : Nat) (i : Instr), i.Wf c → encode i < 2 ^ (12 + c) ∧ decodeWord c (encode i) = i

/-- Every word decodes to a well-formed command; encoding it back keeps exactly the bits its format
uses: `cmd_op` (Z), `cmd_op` and `cmd_idx` (I), all `12 + c` wires (IW). That bits above `11 + c` of
a number that stands for a word are dropped is the model's choice (log 7). -/
def Obligations.EncodeKeepsTheUsedFields : Prop :=
  ∀ (c w : Nat), (decodeWord c w).Wf c ∧
    encode (decodeWord c w) =
      if w % 2 ^ 3 < 4 then w % 2 ^ 3 else if w % 2 ^ 3 < 7 then w % 2 ^ 12 else w % 2 ^ (12 + c)

/-! ### Steps, reset and parameters -/

/-- An idle block runs the command the host issues (R8, R17): a step is `exec` of the decoded
command, the host's stream one event shorter. The stream in the state is the model's choice (log 6). -/
def Obligations.StepRunsTheDecodedCommand : Prop :=
  ∀ (s : State) (w : Nat) (rest : List HostEvent), s.par.Wf → s.phase = .idle →
    s.host = .command w :: rest →
    (decodeWord s.par.C w).Wf s.par.C ∧
    step s = exec (decodeWord s.par.C w) { s with host := rest }

/-- The command placed with `withFetchWord` is the one the next step runs. The placement is the model's
choice (log 6). -/
def Obligations.StepRunsThePlacedCommand : Prop :=
  ∀ (s : State) (nbits w : Nat), s.par.Wf →
    step (s.withFetchWord nbits w) =
      exec (decodeWord s.par.C (w % 2 ^ nbits)) { s with phase := .idle }

/-- "the block is idle until the host issues a command" (R17): with no event, or a pause, an idle
block changes nothing of its own. That the stream may be empty or pause is the model's choice (log 6). -/
def Obligations.IdleBlockChangesNothing : Prop :=
  ∀ (s : State), s.par.Wf → s.phase = .idle →
    (s.host = [] → step s = .next s) ∧
    ∀ rest, s.host = .pause :: rest → step s = .next { s with host := rest }

/-- R6: a parameter set that breaks any of its seven items is refused. R6 names no place: that every
step refuses it, as `malformedParameters`, is the model's reading (log 12). -/
def Obligations.BrokenParametersAreRefused : Prop :=
  ∀ (s : State),
    s.par.B + s.par.P = 0 ∨ s.par.W % 8 ≠ 0 ∨ s.par.W < 8 ∨
    255 < 4 + (s.par.B + s.par.W - 1) / s.par.W * (s.par.W / 8) + s.par.P * s.par.V ∨
    s.par.R = 0 ∨ 2 ^ (8 * s.par.V) - 1 < s.par.R ∨
    s.par.maxRaw = 0 ∨ 2 ^ s.par.C - 1 < s.par.maxRaw ∨
    (s.par.calEn = false ∧ 0 < s.par.P ∧ 2 ^ (8 * s.par.V) - 1 < s.par.maxRaw) ∨
    s.par.btnPin.length ≠ s.par.B ∨ s.par.potPin.length ≠ s.par.P →
    step s = .refused .malformedParameters

/-- R4: the parameters "never change while it exists". -/
def Obligations.ParametersNeverChange : Prop :=
  ∀ (s t : State), step s = .next t → t.par = s.par

/-- R22: the reset values, for every parameter set; no transaction is made. -/
def Obligations.ResetValues : Prop :=
  ∀ (p : Params),
    (∀ j < p.nw, (State.resetWith p).btnWords[j]? = some 0) ∧
    (∀ k < p.P, (State.resetWith p).dataPots[k]? = some 0) ∧
    (p.calEn = true → ∀ k < p.P,
      (State.resetWith p).calMin[k]? = some 0 ∧ (State.resetWith p).calMax[k]? = some 0) ∧
    (State.resetWith p).cfgDone = false ∧ (State.resetWith p).phase = .idle ∧
    (State.resetWith p).record = []

/-- R22, R135, R136: the reset input, on an idle block and (R141) on a waiting one between two passes,
gives every register its reset value and makes no transaction; `csum` and `rsp_data` are left out.
The form of the event, and that the record is kept, is the model's choice (logs 11, 16). -/
def Obligations.ResetInputResetsTheRegisters : Prop :=
  ∀ (s : State) (n : Nat) (rest : List HostEvent), s.par.Wf → s.phase = .idle ∨ n = 0 →
    s.host = .reset n :: rest →
    ∃ t, step s = .next t ∧
      t = { resetRegisters s with
        host := rest, csum := t.csum, rspData := t.rspData, draws := t.draws }

/-! ### Invariants of the whole machine -/

/-- The invariant holds right after reset, for every legal parameter set. -/
def Obligations.ResetIsLegal : Prop :=
  State.reset.Inv ∧ ∀ (p : Params), p.Wf → (State.resetWith p).Inv

/-- Every step keeps the invariant: register counts and widths, R11, R12, R14, the phase. -/
def Obligations.EveryStepKeepsTheInvariant : Prop :=
  ∀ (s t : State), s.Inv → step s = .next t → t.Inv

/-- R120: no step of a legal state faults or is refused, whatever the host does and whatever the
environment answers. -/
def Obligations.LegalStatesNeverStop : Prop :=
  ∀ (s : State), s.Inv → ∃ t, step s = .next t

/-- R10 to R13, R15: the banks are written only by SAMPLE and EMIT, the table only by WRCAL and
CONFIGURE, `cfg_done` only by CONFIGURE, which only sets it. -/
def Obligations.RegistersHaveTheirWriters : Prop :=
  ∀ (i : Instr) (s t : State), exec i s = .next t →
    (i ≠ .sample → i ≠ .emit → t.btnWords = s.btnWords ∧ t.dataPots = s.dataPots) ∧
    (i ≠ .configure → (∀ e v, i ≠ .wrcal e v) → t.calMin = s.calMin ∧ t.calMax = s.calMax) ∧
    (i ≠ .configure → t.cfgDone = s.cfgDone) ∧ (s.cfgDone = true → t.cfgDone = true)

/-- R123, R124, R125: a command adds to the record, never rewrites it, and makes only its own kind
of transaction; so does a step of the calibration wait. That `exec` of CONFIGURE makes the pins, prompt
and notices, and the steps of its wait the polls and the reads, is the model's choice (log 5). -/
def Obligations.TransactionsHaveTheirMakers : Prop :=
  (∀ (i : Instr) (s t : State), exec i s = .next t →
    ∃ new, t.record = s.record ++ new ∧ ∀ x ∈ new, CommandMayMake i x) ∧
  ∀ (s : State), ∃ new, (calibrationStep s).record = s.record ++ new ∧ ∀ x ∈ new, WaitMayMake x

/-- R13, R15, R91: once `cfg_done = 1`, no step but a reset changes the table or `cfg_done`, a
repeated CONFIGURE included. -/
def Obligations.TableIsHeldForLife : Prop :=
  ∀ (s t : State), s.Inv → s.cfgDone = true → (∀ n rest, s.host ≠ .reset n :: rest) →
    (∀ w n rest, s.host ≠ .interrupted w n :: rest) → step s = .next t →
    t.calMin = s.calMin ∧ t.calMax = s.calMax ∧ t.cfgDone = true

/-! ### NOP and the accessors -/

/-- R110: NOP changes nothing and makes no transaction. -/
def Obligations.NopChangesNothing : Prop :=
  ∀ (s : State), ∃ t, exec .nop s = .next t ∧ t.Unanswered s

/-- The model's form of R46's "unspecified" (log 9): a command that returns nothing leaves in
`rsp_data`, when it completes, a free value of `RW` bits that no command drew before, and so does a
waiting CONFIGURE that finds the done signal (log 5). -/
def Obligations.UnspecifiedResponseIsFree : Prop :=
  (∀ (i : Instr) (s t : State), returnsValue i = false → exec i s = .next t →
    (i = .configure → t.phase = .idle) →
    ∃ n, s.draws ≤ n ∧ t.draws = n + 1 ∧
      t.rspData = Config.freeRspData n % 2 ^ s.par.rspWidth ∧ t.rspData < 2 ^ s.par.rspWidth) ∧
  ∀ (s : State), s.env.doneAnswer 0 = true →
    (calibrationStep s).draws = s.draws + 1 ∧
    (calibrationStep s).rspData = Config.freeRspData s.draws % 2 ^ s.par.rspWidth

/-- R68: RDWORD returns the word, 0 out of range, and changes nothing else; in a legal state the bits
of the response that hold no button are 0. -/
def Obligations.RdwordReturnsTheWord : Prop :=
  ∀ (s : State) (j : Idx), ∃ v,
    exec (.rdword j) s = .next { s with rspData := v } ∧
    v = (if j.toNat < s.par.nw then s.btnWords.getD j.toNat 0 else 0) ∧
    (s.Inv → ∀ b, s.par.B ≤ j.toNat * s.par.W + b → v.testBit b = false)

/-- R85: RDPOT returns the value, 0 out of range, and changes nothing else. -/
def Obligations.RdpotReturnsTheValue : Prop :=
  ∀ (s : State) (k : Idx),
    exec (.rdpot k) s =
      .next { s with rspData := if k.toNat < s.par.P then s.dataPots.getD k.toNat 0 else 0 }

/-- R86: RDCAL returns the entry (`2k` is `cal_min[k]`, `2k+1` is `cal_max[k]`), 0 out of range or
without a table, and changes nothing else. -/
def Obligations.RdcalReturnsTheEntry : Prop :=
  ∀ (s : State) (e : Idx),
    exec (.rdcal e) s =
      .next { s with rspData :=
        if s.par.calEn = true ∧ e.toNat < 2 * s.par.P then
          if e.toNat % 2 = 0 then s.calMin.getD (e.toNat / 2) 0 else s.calMax.getD (e.toNat / 2) 0
        else 0 }

/-- R87: WRCAL writes the entry while `cfg_done = 0`; out of range, without a table, or once
`cfg_done = 1` it has no effect. -/
def Obligations.WrcalWritesTheEntry : Prop :=
  ∀ (s : State) (e : Idx) (v : Nat), v < 2 ^ s.par.C →
    ∃ t, exec (.wrcal e v) s = .next t ∧
      t.Unanswered
        (if s.cfgDone = false ∧ s.par.calEn = true ∧ e.toNat < 2 * s.par.P then
          if e.toNat % 2 = 0 then { s with calMin := s.calMin.set (e.toNat / 2) v }
          else { s with calMax := s.calMax.set (e.toNat / 2) v }
        else s)

/-- R86, R87: what WRCAL wrote before CONFIGURE, RDCAL returns; every other entry reads as before. -/
def Obligations.WrittenEntryReadsBack : Prop :=
  ∀ (s : State) (e f : Idx) (v : Nat), s.Inv → s.cfgDone = false → s.par.calEn = true →
    e.toNat < 2 * s.par.P → v < 2 ^ s.par.C →
    ∃ t u, exec (.wrcal e v) s = .next t ∧ exec (.rdcal f) t = .next u ∧
      u.rspData = if f = e then v else s.readCalOperand f

/-! ### SAMPLE -/

/-- R112, R139: SAMPLE before CONFIGURE has no effect and makes no transaction. -/
def Obligations.SampleBeforeConfigureDoesNothing : Prop :=
  ∀ (s : State), s.cfgDone = false → ∃ t, exec .sample s = .next t ∧ t.Unanswered s

/-- R112, R67, R83, R84: SAMPLE reads every button, then every channel, once and in order, and
rebuilds both banks from those readings; everything else is unchanged. -/
def Obligations.SampleRebuildsBothBanks : Prop :=
  ∀ (s : State), s.Inv → s.cfgDone = true →
    ∃ t, exec .sample s = .next t ∧ t.Unanswered (sampledState s)

/-- R70: the packing law, as the sum and bit by bit. -/
def Obligations.PackingLaw : Prop :=
  ∀ (s : State), s.Inv → s.cfgDone = true →
    ∃ t, exec .sample s = .next t ∧ t.btnWords.length = (s.par.B + s.par.W - 1) / s.par.W ∧
      (∀ j < s.par.nw, t.word j =
        ((List.range s.par.B).map fun i =>
          if i / s.par.W = j ∧ active s.par.pol (s.env.digitalAnswer i) = true
          then 2 ^ (i % s.par.W) else 0).sum) ∧
      ∀ i < s.par.B, (t.word (i / s.par.W)).testBit (i % s.par.W) =
        active s.par.pol (s.env.digitalAnswer i)

/-- R67, R83: "the old contents do not influence the result". -/
def Obligations.SampleForgetsTheOldBanks : Prop :=
  ∀ (s : State) (words pots : List Nat), s.Inv → s.cfgDone = true →
    words.length = s.btnWords.length → pots.length = s.dataPots.length →
    ∃ t, exec .sample s = .next t ∧
      exec .sample { s with btnWords := words, dataPots := pots } = .next t

/-- R82 (iv): a SAMPLE that would remap with `mn = mx` stops with the fault, at the first such
channel. Only states outside the invariant (R14) can do so. R82 (iv) asks for a fault; that SAMPLE
stops with one that names the first such channel is the model's reading (log 13). -/
def Obligations.DegeneratePairFaults : Prop :=
  ∀ (s : State) (k : Nat), s.cfgDone = true → s.par.calEn = true → k < s.par.P →
    (∀ i < k, s.minOf i ≠ s.maxOf i) → s.minOf k = s.maxOf k →
    exec .sample s = .fault (.degeneratePair k) ∧ ¬ s.Inv

/-! ### The remapper -/

/-- R89: monotonic in the raw sample when `mn < mx`, reversed when `mn > mx`; `remap(mn) = 0` and
`remap(mx) = R` for both orders. -/
def Obligations.RemapIsMonotonic : Prop :=
  ∀ (r mn mx raw1 raw2 : Nat), mn ≠ mx → raw1 ≤ raw2 →
    ∃ a b, remap r raw1 mn mx = some a ∧ remap r raw2 mn mx = some b ∧
      (mn < mx → a ≤ b) ∧ (mx < mn → b ≤ a) ∧
      remap r mn mn mx = some 0 ∧ remap r mx mn mx = some r

/-- R82 (iv) to (vii): inside the range neither clamp acts, above it the result is `R`, below it 0;
a degenerate pair gives no value. -/
def Obligations.RemapSaturates : Prop :=
  ∀ (r mn mx raw : Nat),
    (mn < mx → mn ≤ raw → raw ≤ mx →
      remap r raw mn mx = some ((raw - mn) * r / (mx - mn)) ∧ (raw - mn) * r / (mx - mn) ≤ r) ∧
    (mn < mx → mx < raw → remap r raw mn mx = some r) ∧
    (mn < mx → raw < mn → remap r raw mn mx = some 0) ∧
    (mn = mx → remap r raw mn mx = none)

/-! ### EMIT and the frame -/

/-- R95, R101: EMIT sends exactly the frame of both banks, in order, and leaves both banks 0;
everything else but the unspecified `csum` and `rsp_data` is unchanged. -/
def Obligations.EmitSendsOneFrameAndDrains : Prop :=
  ∀ (s : State), s.Inv → ∃ t, exec .emit s = .next t ∧ t.UnansweredNoCsum (emittedState s)

/-- R38: the frame byte map of the bytes an EMIT writes, offset by offset. -/
def Obligations.FrameByteMap : Prop :=
  ∀ (s : State), s.Inv → ∃ (t : State) (f : List Byte), exec .emit s = .next t ∧
    t.record = s.record ++ f.map .sinkWrite ∧
    f.length = 4 + (s.par.B + s.par.W - 1) / s.par.W * (s.par.W / 8) + s.par.P * s.par.V ∧
    f[0]? = some (BitVec.ofNat 8 s.par.frameLen) ∧
    f[1]? = some 0x40#8 ∧
    (∀ j < s.par.nw, ∀ i < s.par.wb, f[2 + j * s.par.wb + i]? =
      some (BitVec.ofNat 8 (s.word j / 2 ^ (8 * i)))) ∧
    (∀ k < s.par.P, ∀ i < s.par.V, f[2 + s.par.nw * s.par.wb + k * s.par.V + i]? =
      some (BitVec.ofNat 8 (s.pot k / 2 ^ (8 * i)))) ∧
    f[s.par.frameLen - 2]? =
      some (BitVec.ofNat 8 (checksumOf (f.take (s.par.frameLen - 2))).toNat) ∧
    f[s.par.frameLen - 1]? =
      some (BitVec.ofNat 8 ((checksumOf (f.take (s.par.frameLen - 2))).toNat / 2 ^ 8))

/-- R32: in the frame an EMIT writes, button `i` is bit `i mod 8` of payload byte
`(i div W)*WB + (i mod W) div 8`. -/
def Obligations.ButtonBitInTheFrame : Prop :=
  ∀ (s : State), s.Inv → ∃ (t : State) (f : List Byte), exec .emit s = .next t ∧
    t.record = s.record ++ f.map .sinkWrite ∧
    ∀ i < s.par.B, ∃ b, f[2 + (i / s.par.W * s.par.wb + i % s.par.W / 8)]? = some b ∧
      b.getLsbD (i % 8) = (s.word (i / s.par.W)).testBit (i % s.par.W)

/-- R103: every frame an EMIT writes satisfies the verifier's contract, in both its forms. -/
def Obligations.EveryFrameVerifies : Prop :=
  ∀ (s : State), s.Inv → ∃ (t : State) (f : List Byte), exec .emit s = .next t ∧
    t.record = s.record ++ f.map .sinkWrite ∧ FrameVerifies f ∧
    ((0xFFFF : Int) - byteSum (f.take (f.length - 2))) % 2 ^ 16 = receivedChecksum f

/-- R104: the accumulator never wraps. -/
def Obligations.ChecksumNeverWraps : Prop :=
  ∀ (s : State), s.Inv → ∃ (t : State) (f : List Byte), exec .emit s = .next t ∧
    t.record = s.record ++ f.map .sinkWrite ∧
    byteSum (f.take (f.length - 2)) ≤ 64324 ∧
    receivedChecksum f = 65535 - byteSum (f.take (f.length - 2)) ∧
    1211 ≤ receivedChecksum f ∧ receivedChecksum f ≤ 65466

/-- R105: a change of exactly one byte at an offset in `1 .. L-3` makes verification fail. -/
def Obligations.OneChangedByteIsDetected : Prop :=
  ∀ (s : State), s.Inv → ∃ (t : State) (f : List Byte), exec .emit s = .next t ∧
    t.record = s.record ++ f.map .sinkWrite ∧
    ∀ (n : Nat) (b : Byte), 1 ≤ n → n ≤ s.par.frameLen - 3 → f[n]? ≠ some b →
      ¬ FrameVerifies (f.set n b)

/-- R51: a receiver reassembles a field of `n` bytes. -/
def Obligations.FieldReassembles : Prop :=
  ∀ (n v : Nat), v < 2 ^ (8 * n) →
    (fieldBytes n v).length = n ∧
    ((List.range n).map fun t => ((fieldBytes n v).getD t 0).toNat * 2 ^ (8 * t)).sum = v

/-- R102: a second EMIT, and an EMIT straight after reset, send the all-zero-payload frame. -/
def Obligations.SecondEmitSendsZeros : Prop :=
  (∀ (s : State), s.Inv → ∃ t u, exec .emit s = .next t ∧ exec .emit t = .next u ∧
    u.record = t.record ++ (zeroFrame s.par).map .sinkWrite) ∧
  ∀ (p : Params), p.Wf → ∃ t, exec .emit (State.resetWith p) = .next t ∧
    t.record = (zeroFrame p).map .sinkWrite

/-- R16: no rule reads `csum` before EMIT has initialised it. -/
def Obligations.EmitForgetsTheOldChecksum : Prop :=
  ∀ (s : State) (c : Checksum),
    ∃ t, exec .emit s = .next t ∧ exec .emit { s with csum := c } = .next t

/-! ### CONFIGURE and the calibration wait -/

/-- R111, R75, R79: CONFIGURE on a supplied or settled table (some entry not 0) sets every pin,
corrects and reports the degenerate pairs, and sets `cfg_done`. -/
def Obligations.ConfigureCorrectsAGivenTable : Prop :=
  ∀ (s : State), s.Inv → s.phase = .idle → s.par.calEn = true →
    (∃ k < s.par.P, s.minOf k ≠ 0 ∨ s.maxOf k ≠ 0) →
    ∃ t, exec .configure s = .next t ∧ t.Unanswered (correctedState s)

/-- R111 (iii), R75 (i), (ii), R88: without a table CONFIGURE sets every pin and `cfg_done`, and emits
no diagnostic. -/
def Obligations.ConfigureWithoutATableSetsPins : Prop :=
  ∀ (s : State), s.Inv → s.phase = .idle → s.par.P = 0 ∨ s.par.calEn = false →
    ∃ t, exec .configure s = .next t ∧ t.Unanswered (pinsOnlyState s)

/-- R75, R76, R77: CONFIGURE on an all-zero table sets every pin, the table to `(UNSIGNED_MAX, 0)`,
prompts, and waits. That the wait is the state after this step, with `rsp_data` as it was, is the
model's choice (logs 5, 9). -/
def Obligations.ConfigureBeginsAutocalibration : Prop :=
  ∀ (s : State), s.Inv → s.phase = .idle → s.par.calEn = true → 0 < s.par.P →
    (∀ k < s.par.P, s.minOf k = 0 ∧ s.maxOf k = 0) →
    exec .configure s = .next (calibratingState s)

/-- R77, R78, R145: while the done signal is absent a step polls once and sweeps every channel once;
the host's command, if any, is not accepted. One pass a step, with `rsp_data` as it was, is the
model's choice (logs 5, 9). -/
def Obligations.WaitingStepSweepsOnce : Prop :=
  ∀ (s : State), s.Inv → s.phase = .calibrating → s.HostWaits → s.env.doneAnswer 0 = false →
    step s = .next { s with
      calMin := (List.range s.par.P).map fun k =>
        (calUpdatePair (s.env.analogAnswer s.par.C k) (s.minOf k) (s.maxOf k)).1
      calMax := (List.range s.par.P).map fun k =>
        (calUpdatePair (s.env.analogAnswer s.par.C k) (s.minOf k) (s.maxOf k)).2
      env := (s.env.afterPolls 1).afterAnalog s.par.P
      record := s.record ++ .diagInAvail false :: (List.range s.par.P).map fun k =>
        .readAnalog (s.par.potPinAt k) (s.env.analogAnswer s.par.C k) }

/-- R75 to R80, R111, R147: an auto-calibration whose done signal arrives at poll `n + 1` makes `n`
sweeps and ends in `n + 1` steps with the pairs R78 gives, corrected and reported. The count of steps
is the model's choice (log 5). -/
def Obligations.AutocalibrationRun : Prop :=
  ∀ (s : State) (n : Nat), s.Inv → s.phase = .calibrating → s.HostWaits →
    (∀ i < n, s.env.doneAnswer i = false) → s.env.doneAnswer n = true →
    ∃ t, Sys2Proof.core.run (n + 1) s = .next t ∧ t.Unanswered (calibratedState s n)

/-- R141: as long as the done signal stays away, CONFIGURE is still waiting, after any number of
steps. That a pass is a step is the model's choice (log 5). -/
def Obligations.CalibrationWaitsWithoutTimeout : Prop :=
  ∀ (s : State) (n : Nat), s.Inv → s.phase = .calibrating → s.HostWaits →
    (∀ i < n, s.env.doneAnswer i = false) →
    ∃ t, Sys2Proof.core.run n s = .next t ∧ t.phase = .calibrating ∧ t.cfgDone = false ∧
      t.host = s.host

/-- R90: the pair auto-calibration reaches after `n` samples: the least of `UNSIGNED_MAX` and the
samples, and the greatest of 0 and those samples that were not below the then-current minimum. -/
def Obligations.ReachablePairs : Prop :=
  ∀ (u : Nat) (x : Nat → Nat) (n : Nat),
    (pairAfter (u, 0) x n).1 = ((List.range n).map x).foldl min u ∧
    (pairAfter (u, 0) x n).2 =
      (((List.range n).filter fun i => (pairAfter (u, 0) x i).1 ≤ x i).map x).foldl max 0

/-- R111 (ii), R91: a repeated CONFIGURE re-issues the pin transactions and changes nothing else. -/
def Obligations.RepeatedConfigureOnlySetsPins : Prop :=
  ∀ (s : State), s.Inv → s.cfgDone = true →
    ∃ t, exec .configure s = .next t ∧
      t.Unanswered { s with record := s.record ++ configureRecord s.par }

/-- R147: the counts of transactions: `B + P` pin settings a CONFIGURE, `B + P` reads a SAMPLE that
takes effect, `L` bytes an EMIT, `n*P` analog reads and `n + 1` polls a calibration of `n` sweeps
(over the `n + 1` steps of its wait, log 5). -/
def Obligations.TransactionCounts : Prop :=
  ∀ (s : State), s.Inv →
    (∃ t, exec .configure s = .next t ∧
      t.record.countP Transaction.isConfigurePin =
        s.record.countP Transaction.isConfigurePin + (s.par.B + s.par.P)) ∧
    (s.cfgDone = true → ∃ t, exec .sample s = .next t ∧
      t.record.countP Transaction.isReadDigital =
        s.record.countP Transaction.isReadDigital + s.par.B ∧
      t.record.countP Transaction.isReadAnalog =
        s.record.countP Transaction.isReadAnalog + s.par.P) ∧
    (∃ t, exec .emit s = .next t ∧
      t.record.countP Transaction.isSinkWrite =
        s.record.countP Transaction.isSinkWrite + s.par.frameLen) ∧
    ∀ n, s.phase = .calibrating → s.HostWaits → (∀ i < n, s.env.doneAnswer i = false) →
      s.env.doneAnswer n = true →
      ∃ t, Sys2Proof.core.run (n + 1) s = .next t ∧
        t.record.countP Transaction.isReadAnalog =
          s.record.countP Transaction.isReadAnalog + n * s.par.P ∧
        t.record.countP Transaction.isPoll = s.record.countP Transaction.isPoll + (n + 1)

/-! ### Reset inside a command -/

/-- R146: a command cut by the reset input after `n` of the transactions its `exec` makes leaves every
register at its reset value and the first `n` of these; the environment has answered the reads among
them, and after all of them it is where `exec` leaves it. What `exec` makes is the whole command's
record, but for a CONFIGURE that auto-calibrates: there it is the pins and the prompt, and the cut
of its wait is `ResetCutsAPass`. This split and the form of the event are the model's choice
(logs 5, 11). -/
def Obligations.ResetCutsACommand : Prop :=
  ∀ (s : State) (w n : Nat) (rest : List HostEvent), s.Inv → s.phase = .idle →
    s.host = .interrupted w n :: rest →
    ∃ u new t, exec (decodeWord s.par.C w) { s with host := rest } = .next u ∧
      u.record = s.record ++ new ∧ u.env = s.env.afterAll new ∧ step s = .next t ∧
      t = { resetRegisters s with
        host := rest
        record := s.record ++ new.take n
        env := s.env.afterAll (new.take n)
        csum := t.csum, rspData := t.rspData, draws := t.draws }

/-- R143, R146: "a frame may have been cut short on the sink": an EMIT cut after `n` bytes has written
the first `n` bytes of its frame, and both banks are 0. -/
def Obligations.CutFrameIsAPrefix : Prop :=
  ∀ (s : State) (w n : Nat) (rest : List HostEvent), s.Inv → s.phase = .idle →
    s.host = .interrupted w n :: rest → decodeWord s.par.C w = .emit →
    ∃ t, step s = .next t ∧
      t.record = s.record ++ ((frameBytes s.par s.btnWords s.dataPots).take n).map .sinkWrite ∧
      t.btnWords = List.replicate s.par.nw 0 ∧ t.dataPots = List.replicate s.par.P 0 ∧
      t.env = s.env

/-- R141, R146: a reset of a waiting CONFIGURE, after `n` transactions of the pass in progress, leaves
every register at its reset value and the first `n` transactions of that pass. The form of the event
is the model's choice (logs 5, 11). -/
def Obligations.ResetCutsAPass : Prop :=
  ∀ (s : State) (n : Nat) (rest : List HostEvent), s.Inv → s.phase = .calibrating →
    s.host = .reset n :: rest →
    ∃ t, step s = .next t ∧
      t = { resetRegisters s with
        host := rest
        record := s.record ++ (passRecord s).take n
        env := s.env.afterAll ((passRecord s).take n)
        csum := t.csum, rspData := t.rspData, draws := t.draws }
end

