-- ==== Sys2Proof/Laws/State.lean ====
section
/-! SUPPORT. One lemma per field per update of the state, and what the readers of one register see
after a write of one. -/

namespace Sys2Proof.Machine

variable (s : State)

@[simp] theorem setWord_par (j v : Nat) : (s.setWord j v).par = s.par := rfl
@[simp] theorem setWord_btnWords (j v : Nat) : (s.setWord j v).btnWords = s.btnWords.set j (v % 2 ^ s.par.W) := rfl
@[simp] theorem setWord_dataPots (j v : Nat) : (s.setWord j v).dataPots = s.dataPots := rfl
@[simp] theorem setWord_calMin (j v : Nat) : (s.setWord j v).calMin = s.calMin := rfl
@[simp] theorem setWord_calMax (j v : Nat) : (s.setWord j v).calMax = s.calMax := rfl
@[simp] theorem setWord_cfgDone (j v : Nat) : (s.setWord j v).cfgDone = s.cfgDone := rfl
@[simp] theorem setWord_csum (j v : Nat) : (s.setWord j v).csum = s.csum := rfl
@[simp] theorem setWord_rspData (j v : Nat) : (s.setWord j v).rspData = s.rspData := rfl
@[simp] theorem setWord_phase (j v : Nat) : (s.setWord j v).phase = s.phase := rfl
@[simp] theorem setWord_host (j v : Nat) : (s.setWord j v).host = s.host := rfl
@[simp] theorem setWord_env (j v : Nat) : (s.setWord j v).env = s.env := rfl
@[simp] theorem setWord_draws (j v : Nat) : (s.setWord j v).draws = s.draws := rfl
@[simp] theorem setWord_record (j v : Nat) : (s.setWord j v).record = s.record := rfl

@[simp] theorem setPot_par (k v : Nat) : (s.setPot k v).par = s.par := rfl
@[simp] theorem setPot_btnWords (k v : Nat) : (s.setPot k v).btnWords = s.btnWords := rfl
@[simp] theorem setPot_dataPots (k v : Nat) : (s.setPot k v).dataPots = s.dataPots.set k (v % 2 ^ (8 * s.par.V)) := rfl
@[simp] theorem setPot_calMin (k v : Nat) : (s.setPot k v).calMin = s.calMin := rfl
@[simp] theorem setPot_calMax (k v : Nat) : (s.setPot k v).calMax = s.calMax := rfl
@[simp] theorem setPot_cfgDone (k v : Nat) : (s.setPot k v).cfgDone = s.cfgDone := rfl
@[simp] theorem setPot_csum (k v : Nat) : (s.setPot k v).csum = s.csum := rfl
@[simp] theorem setPot_rspData (k v : Nat) : (s.setPot k v).rspData = s.rspData := rfl
@[simp] theorem setPot_phase (k v : Nat) : (s.setPot k v).phase = s.phase := rfl
@[simp] theorem setPot_host (k v : Nat) : (s.setPot k v).host = s.host := rfl
@[simp] theorem setPot_env (k v : Nat) : (s.setPot k v).env = s.env := rfl
@[simp] theorem setPot_draws (k v : Nat) : (s.setPot k v).draws = s.draws := rfl
@[simp] theorem setPot_record (k v : Nat) : (s.setPot k v).record = s.record := rfl

@[simp] theorem setCalMin_par (k v : Nat) : (s.setCalMin k v).par = s.par := rfl
@[simp] theorem setCalMin_btnWords (k v : Nat) : (s.setCalMin k v).btnWords = s.btnWords := rfl
@[simp] theorem setCalMin_dataPots (k v : Nat) : (s.setCalMin k v).dataPots = s.dataPots := rfl
@[simp] theorem setCalMin_calMin (k v : Nat) : (s.setCalMin k v).calMin = s.calMin.set k (v % 2 ^ s.par.C) := rfl
@[simp] theorem setCalMin_calMax (k v : Nat) : (s.setCalMin k v).calMax = s.calMax := rfl
@[simp] theorem setCalMin_cfgDone (k v : Nat) : (s.setCalMin k v).cfgDone = s.cfgDone := rfl
@[simp] theorem setCalMin_csum (k v : Nat) : (s.setCalMin k v).csum = s.csum := rfl
@[simp] theorem setCalMin_rspData (k v : Nat) : (s.setCalMin k v).rspData = s.rspData := rfl
@[simp] theorem setCalMin_phase (k v : Nat) : (s.setCalMin k v).phase = s.phase := rfl
@[simp] theorem setCalMin_host (k v : Nat) : (s.setCalMin k v).host = s.host := rfl
@[simp] theorem setCalMin_env (k v : Nat) : (s.setCalMin k v).env = s.env := rfl
@[simp] theorem setCalMin_draws (k v : Nat) : (s.setCalMin k v).draws = s.draws := rfl
@[simp] theorem setCalMin_record (k v : Nat) : (s.setCalMin k v).record = s.record := rfl

@[simp] theorem setCalMax_par (k v : Nat) : (s.setCalMax k v).par = s.par := rfl
@[simp] theorem setCalMax_btnWords (k v : Nat) : (s.setCalMax k v).btnWords = s.btnWords := rfl
@[simp] theorem setCalMax_dataPots (k v : Nat) : (s.setCalMax k v).dataPots = s.dataPots := rfl
@[simp] theorem setCalMax_calMin (k v : Nat) : (s.setCalMax k v).calMin = s.calMin := rfl
@[simp] theorem setCalMax_calMax (k v : Nat) : (s.setCalMax k v).calMax = s.calMax.set k (v % 2 ^ s.par.C) := rfl
@[simp] theorem setCalMax_cfgDone (k v : Nat) : (s.setCalMax k v).cfgDone = s.cfgDone := rfl
@[simp] theorem setCalMax_csum (k v : Nat) : (s.setCalMax k v).csum = s.csum := rfl
@[simp] theorem setCalMax_rspData (k v : Nat) : (s.setCalMax k v).rspData = s.rspData := rfl
@[simp] theorem setCalMax_phase (k v : Nat) : (s.setCalMax k v).phase = s.phase := rfl
@[simp] theorem setCalMax_host (k v : Nat) : (s.setCalMax k v).host = s.host := rfl
@[simp] theorem setCalMax_env (k v : Nat) : (s.setCalMax k v).env = s.env := rfl
@[simp] theorem setCalMax_draws (k v : Nat) : (s.setCalMax k v).draws = s.draws := rfl
@[simp] theorem setCalMax_record (k v : Nat) : (s.setCalMax k v).record = s.record := rfl

@[simp] theorem note_par (t : Transaction) : (s.note t).par = s.par := rfl
@[simp] theorem note_btnWords (t : Transaction) : (s.note t).btnWords = s.btnWords := rfl
@[simp] theorem note_dataPots (t : Transaction) : (s.note t).dataPots = s.dataPots := rfl
@[simp] theorem note_calMin (t : Transaction) : (s.note t).calMin = s.calMin := rfl
@[simp] theorem note_calMax (t : Transaction) : (s.note t).calMax = s.calMax := rfl
@[simp] theorem note_cfgDone (t : Transaction) : (s.note t).cfgDone = s.cfgDone := rfl
@[simp] theorem note_csum (t : Transaction) : (s.note t).csum = s.csum := rfl
@[simp] theorem note_rspData (t : Transaction) : (s.note t).rspData = s.rspData := rfl
@[simp] theorem note_phase (t : Transaction) : (s.note t).phase = s.phase := rfl
@[simp] theorem note_host (t : Transaction) : (s.note t).host = s.host := rfl
@[simp] theorem note_env (t : Transaction) : (s.note t).env = s.env := rfl
@[simp] theorem note_draws (t : Transaction) : (s.note t).draws = s.draws := rfl
@[simp] theorem note_record (t : Transaction) : (s.note t).record = s.record ++ [t] := rfl

@[simp] theorem respond_par (v : Nat) : (s.respond v).par = s.par := rfl
@[simp] theorem respond_btnWords (v : Nat) : (s.respond v).btnWords = s.btnWords := rfl
@[simp] theorem respond_dataPots (v : Nat) : (s.respond v).dataPots = s.dataPots := rfl
@[simp] theorem respond_calMin (v : Nat) : (s.respond v).calMin = s.calMin := rfl
@[simp] theorem respond_calMax (v : Nat) : (s.respond v).calMax = s.calMax := rfl
@[simp] theorem respond_cfgDone (v : Nat) : (s.respond v).cfgDone = s.cfgDone := rfl
@[simp] theorem respond_csum (v : Nat) : (s.respond v).csum = s.csum := rfl
@[simp] theorem respond_rspData (v : Nat) : (s.respond v).rspData = v := rfl
@[simp] theorem respond_phase (v : Nat) : (s.respond v).phase = s.phase := rfl
@[simp] theorem respond_host (v : Nat) : (s.respond v).host = s.host := rfl
@[simp] theorem respond_env (v : Nat) : (s.respond v).env = s.env := rfl
@[simp] theorem respond_draws (v : Nat) : (s.respond v).draws = s.draws := rfl
@[simp] theorem respond_record (v : Nat) : (s.respond v).record = s.record := rfl

@[simp] theorem noResponse_par : s.noResponse.par = s.par := rfl
@[simp] theorem noResponse_btnWords : s.noResponse.btnWords = s.btnWords := rfl
@[simp] theorem noResponse_dataPots : s.noResponse.dataPots = s.dataPots := rfl
@[simp] theorem noResponse_calMin : s.noResponse.calMin = s.calMin := rfl
@[simp] theorem noResponse_calMax : s.noResponse.calMax = s.calMax := rfl
@[simp] theorem noResponse_cfgDone : s.noResponse.cfgDone = s.cfgDone := rfl
@[simp] theorem noResponse_csum : s.noResponse.csum = s.csum := rfl
@[simp] theorem noResponse_rspData : s.noResponse.rspData = Config.freeRspData s.draws % 2 ^ s.par.rspWidth := rfl
@[simp] theorem noResponse_phase : s.noResponse.phase = s.phase := rfl
@[simp] theorem noResponse_host : s.noResponse.host = s.host := rfl
@[simp] theorem noResponse_env : s.noResponse.env = s.env := rfl
@[simp] theorem noResponse_draws : s.noResponse.draws = s.draws + 1 := rfl
@[simp] theorem noResponse_record : s.noResponse.record = s.record := rfl

@[simp] theorem releaseCsum_par : s.releaseCsum.par = s.par := rfl
@[simp] theorem releaseCsum_btnWords : s.releaseCsum.btnWords = s.btnWords := rfl
@[simp] theorem releaseCsum_dataPots : s.releaseCsum.dataPots = s.dataPots := rfl
@[simp] theorem releaseCsum_calMin : s.releaseCsum.calMin = s.calMin := rfl
@[simp] theorem releaseCsum_calMax : s.releaseCsum.calMax = s.calMax := rfl
@[simp] theorem releaseCsum_cfgDone : s.releaseCsum.cfgDone = s.cfgDone := rfl
@[simp] theorem releaseCsum_csum : s.releaseCsum.csum = Config.freeCsum s.draws := rfl
@[simp] theorem releaseCsum_rspData : s.releaseCsum.rspData = s.rspData := rfl
@[simp] theorem releaseCsum_phase : s.releaseCsum.phase = s.phase := rfl
@[simp] theorem releaseCsum_host : s.releaseCsum.host = s.host := rfl
@[simp] theorem releaseCsum_env : s.releaseCsum.env = s.env := rfl
@[simp] theorem releaseCsum_draws : s.releaseCsum.draws = s.draws + 1 := rfl
@[simp] theorem releaseCsum_record : s.releaseCsum.record = s.record := rfl

@[simp] theorem setConfigured_par : s.setConfigured.par = s.par := rfl
@[simp] theorem setConfigured_btnWords : s.setConfigured.btnWords = s.btnWords := rfl
@[simp] theorem setConfigured_dataPots : s.setConfigured.dataPots = s.dataPots := rfl
@[simp] theorem setConfigured_calMin : s.setConfigured.calMin = s.calMin := rfl
@[simp] theorem setConfigured_calMax : s.setConfigured.calMax = s.calMax := rfl
@[simp] theorem setConfigured_cfgDone : s.setConfigured.cfgDone = true := rfl
@[simp] theorem setConfigured_csum : s.setConfigured.csum = s.csum := rfl
@[simp] theorem setConfigured_rspData : s.setConfigured.rspData = s.rspData := rfl
@[simp] theorem setConfigured_phase : s.setConfigured.phase = s.phase := rfl
@[simp] theorem setConfigured_host : s.setConfigured.host = s.host := rfl
@[simp] theorem setConfigured_env : s.setConfigured.env = s.env := rfl
@[simp] theorem setConfigured_draws : s.setConfigured.draws = s.draws := rfl
@[simp] theorem setConfigured_record : s.setConfigured.record = s.record := rfl

@[simp] theorem configurePin_par (id : PinId) (m : PinMode) : (configurePin id m s).par = s.par := rfl
@[simp] theorem configurePin_btnWords (id : PinId) (m : PinMode) : (configurePin id m s).btnWords = s.btnWords := rfl
@[simp] theorem configurePin_dataPots (id : PinId) (m : PinMode) : (configurePin id m s).dataPots = s.dataPots := rfl
@[simp] theorem configurePin_calMin (id : PinId) (m : PinMode) : (configurePin id m s).calMin = s.calMin := rfl
@[simp] theorem configurePin_calMax (id : PinId) (m : PinMode) : (configurePin id m s).calMax = s.calMax := rfl
@[simp] theorem configurePin_cfgDone (id : PinId) (m : PinMode) : (configurePin id m s).cfgDone = s.cfgDone := rfl
@[simp] theorem configurePin_csum (id : PinId) (m : PinMode) : (configurePin id m s).csum = s.csum := rfl
@[simp] theorem configurePin_rspData (id : PinId) (m : PinMode) : (configurePin id m s).rspData = s.rspData := rfl
@[simp] theorem configurePin_phase (id : PinId) (m : PinMode) : (configurePin id m s).phase = s.phase := rfl
@[simp] theorem configurePin_host (id : PinId) (m : PinMode) : (configurePin id m s).host = s.host := rfl
@[simp] theorem configurePin_env (id : PinId) (m : PinMode) : (configurePin id m s).env = s.env := rfl
@[simp] theorem configurePin_draws (id : PinId) (m : PinMode) : (configurePin id m s).draws = s.draws := rfl
@[simp] theorem configurePin_record (id : PinId) (m : PinMode) : (configurePin id m s).record = s.record ++ [.configurePin id m] := rfl

@[simp] theorem sinkWrite_par (b : Byte) : (sinkWrite b s).par = s.par := rfl
@[simp] theorem sinkWrite_btnWords (b : Byte) : (sinkWrite b s).btnWords = s.btnWords := rfl
@[simp] theorem sinkWrite_dataPots (b : Byte) : (sinkWrite b s).dataPots = s.dataPots := rfl
@[simp] theorem sinkWrite_calMin (b : Byte) : (sinkWrite b s).calMin = s.calMin := rfl
@[simp] theorem sinkWrite_calMax (b : Byte) : (sinkWrite b s).calMax = s.calMax := rfl
@[simp] theorem sinkWrite_cfgDone (b : Byte) : (sinkWrite b s).cfgDone = s.cfgDone := rfl
@[simp] theorem sinkWrite_csum (b : Byte) : (sinkWrite b s).csum = s.csum := rfl
@[simp] theorem sinkWrite_rspData (b : Byte) : (sinkWrite b s).rspData = s.rspData := rfl
@[simp] theorem sinkWrite_phase (b : Byte) : (sinkWrite b s).phase = s.phase := rfl
@[simp] theorem sinkWrite_host (b : Byte) : (sinkWrite b s).host = s.host := rfl
@[simp] theorem sinkWrite_env (b : Byte) : (sinkWrite b s).env = s.env := rfl
@[simp] theorem sinkWrite_draws (b : Byte) : (sinkWrite b s).draws = s.draws := rfl
@[simp] theorem sinkWrite_record (b : Byte) : (sinkWrite b s).record = s.record ++ [.sinkWrite b] := rfl

@[simp] theorem diagEmit_par (e : DiagEvent) : (diagEmit e s).par = s.par := rfl
@[simp] theorem diagEmit_btnWords (e : DiagEvent) : (diagEmit e s).btnWords = s.btnWords := rfl
@[simp] theorem diagEmit_dataPots (e : DiagEvent) : (diagEmit e s).dataPots = s.dataPots := rfl
@[simp] theorem diagEmit_calMin (e : DiagEvent) : (diagEmit e s).calMin = s.calMin := rfl
@[simp] theorem diagEmit_calMax (e : DiagEvent) : (diagEmit e s).calMax = s.calMax := rfl
@[simp] theorem diagEmit_cfgDone (e : DiagEvent) : (diagEmit e s).cfgDone = s.cfgDone := rfl
@[simp] theorem diagEmit_csum (e : DiagEvent) : (diagEmit e s).csum = s.csum := rfl
@[simp] theorem diagEmit_rspData (e : DiagEvent) : (diagEmit e s).rspData = s.rspData := rfl
@[simp] theorem diagEmit_phase (e : DiagEvent) : (diagEmit e s).phase = s.phase := rfl
@[simp] theorem diagEmit_host (e : DiagEvent) : (diagEmit e s).host = s.host := rfl
@[simp] theorem diagEmit_env (e : DiagEvent) : (diagEmit e s).env = s.env := rfl
@[simp] theorem diagEmit_draws (e : DiagEvent) : (diagEmit e s).draws = s.draws := rfl
@[simp] theorem diagEmit_record (e : DiagEvent) : (diagEmit e s).record = s.record ++ [.diagEmit e] := rfl

@[simp] theorem put_par (b : Byte) : (put b s).par = s.par := rfl
@[simp] theorem put_btnWords (b : Byte) : (put b s).btnWords = s.btnWords := rfl
@[simp] theorem put_dataPots (b : Byte) : (put b s).dataPots = s.dataPots := rfl
@[simp] theorem put_calMin (b : Byte) : (put b s).calMin = s.calMin := rfl
@[simp] theorem put_calMax (b : Byte) : (put b s).calMax = s.calMax := rfl
@[simp] theorem put_cfgDone (b : Byte) : (put b s).cfgDone = s.cfgDone := rfl
@[simp] theorem put_csum (b : Byte) : (put b s).csum = s.csum - b.setWidth 16 := rfl
@[simp] theorem put_rspData (b : Byte) : (put b s).rspData = s.rspData := rfl
@[simp] theorem put_phase (b : Byte) : (put b s).phase = s.phase := rfl
@[simp] theorem put_host (b : Byte) : (put b s).host = s.host := rfl
@[simp] theorem put_env (b : Byte) : (put b s).env = s.env := rfl
@[simp] theorem put_draws (b : Byte) : (put b s).draws = s.draws := rfl
@[simp] theorem put_record (b : Byte) : (put b s).record = s.record ++ [.sinkWrite b] := rfl

@[simp] theorem readDigital_par (id : PinId) : (readDigital id s).2.par = s.par := rfl
@[simp] theorem readDigital_btnWords (id : PinId) : (readDigital id s).2.btnWords = s.btnWords := rfl
@[simp] theorem readDigital_dataPots (id : PinId) : (readDigital id s).2.dataPots = s.dataPots := rfl
@[simp] theorem readDigital_calMin (id : PinId) : (readDigital id s).2.calMin = s.calMin := rfl
@[simp] theorem readDigital_calMax (id : PinId) : (readDigital id s).2.calMax = s.calMax := rfl
@[simp] theorem readDigital_cfgDone (id : PinId) : (readDigital id s).2.cfgDone = s.cfgDone := rfl
@[simp] theorem readDigital_csum (id : PinId) : (readDigital id s).2.csum = s.csum := rfl
@[simp] theorem readDigital_rspData (id : PinId) : (readDigital id s).2.rspData = s.rspData := rfl
@[simp] theorem readDigital_phase (id : PinId) : (readDigital id s).2.phase = s.phase := rfl
@[simp] theorem readDigital_host (id : PinId) : (readDigital id s).2.host = s.host := rfl
@[simp] theorem readDigital_env (id : PinId) : (readDigital id s).2.env = s.env.afterDigital 1 := rfl
@[simp] theorem readDigital_draws (id : PinId) : (readDigital id s).2.draws = s.draws := rfl
@[simp] theorem readDigital_record (id : PinId) : (readDigital id s).2.record = s.record ++ [.readDigital id (s.env.digitalAnswer 0)] := rfl

@[simp] theorem readAnalog_par (id : PinId) : (readAnalog id s).2.par = s.par := rfl
@[simp] theorem readAnalog_btnWords (id : PinId) : (readAnalog id s).2.btnWords = s.btnWords := rfl
@[simp] theorem readAnalog_dataPots (id : PinId) : (readAnalog id s).2.dataPots = s.dataPots := rfl
@[simp] theorem readAnalog_calMin (id : PinId) : (readAnalog id s).2.calMin = s.calMin := rfl
@[simp] theorem readAnalog_calMax (id : PinId) : (readAnalog id s).2.calMax = s.calMax := rfl
@[simp] theorem readAnalog_cfgDone (id : PinId) : (readAnalog id s).2.cfgDone = s.cfgDone := rfl
@[simp] theorem readAnalog_csum (id : PinId) : (readAnalog id s).2.csum = s.csum := rfl
@[simp] theorem readAnalog_rspData (id : PinId) : (readAnalog id s).2.rspData = s.rspData := rfl
@[simp] theorem readAnalog_phase (id : PinId) : (readAnalog id s).2.phase = s.phase := rfl
@[simp] theorem readAnalog_host (id : PinId) : (readAnalog id s).2.host = s.host := rfl
@[simp] theorem readAnalog_env (id : PinId) : (readAnalog id s).2.env = s.env.afterAnalog 1 := rfl
@[simp] theorem readAnalog_draws (id : PinId) : (readAnalog id s).2.draws = s.draws := rfl
@[simp] theorem readAnalog_record (id : PinId) : (readAnalog id s).2.record = s.record ++ [.readAnalog id (s.env.analogAnswer s.par.C 0)] := rfl

@[simp] theorem diagInAvail_par : (diagInAvail s).2.par = s.par := rfl
@[simp] theorem diagInAvail_btnWords : (diagInAvail s).2.btnWords = s.btnWords := rfl
@[simp] theorem diagInAvail_dataPots : (diagInAvail s).2.dataPots = s.dataPots := rfl
@[simp] theorem diagInAvail_calMin : (diagInAvail s).2.calMin = s.calMin := rfl
@[simp] theorem diagInAvail_calMax : (diagInAvail s).2.calMax = s.calMax := rfl
@[simp] theorem diagInAvail_cfgDone : (diagInAvail s).2.cfgDone = s.cfgDone := rfl
@[simp] theorem diagInAvail_csum : (diagInAvail s).2.csum = s.csum := rfl
@[simp] theorem diagInAvail_rspData : (diagInAvail s).2.rspData = s.rspData := rfl
@[simp] theorem diagInAvail_phase : (diagInAvail s).2.phase = s.phase := rfl
@[simp] theorem diagInAvail_host : (diagInAvail s).2.host = s.host := rfl
@[simp] theorem diagInAvail_env : (diagInAvail s).2.env = s.env.afterPolls 1 := rfl
@[simp] theorem diagInAvail_draws : (diagInAvail s).2.draws = s.draws := rfl
@[simp] theorem diagInAvail_record : (diagInAvail s).2.record = s.record ++ [.diagInAvail (s.env.doneAnswer 0)] := rfl

@[simp] theorem setWord_reads_pot (j v : Nat) (i : Nat) : (s.setWord j v).pot i = s.pot i := rfl
@[simp] theorem setWord_reads_minOf (j v : Nat) (i : Nat) : (s.setWord j v).minOf i = s.minOf i := rfl
@[simp] theorem setWord_reads_maxOf (j v : Nat) (i : Nat) : (s.setWord j v).maxOf i = s.maxOf i := rfl

@[simp] theorem setPot_reads_word (k v : Nat) (i : Nat) : (s.setPot k v).word i = s.word i := rfl
@[simp] theorem setPot_reads_minOf (k v : Nat) (i : Nat) : (s.setPot k v).minOf i = s.minOf i := rfl
@[simp] theorem setPot_reads_maxOf (k v : Nat) (i : Nat) : (s.setPot k v).maxOf i = s.maxOf i := rfl

@[simp] theorem setCalMin_reads_word (k v : Nat) (i : Nat) : (s.setCalMin k v).word i = s.word i := rfl
@[simp] theorem setCalMin_reads_pot (k v : Nat) (i : Nat) : (s.setCalMin k v).pot i = s.pot i := rfl
@[simp] theorem setCalMin_reads_maxOf (k v : Nat) (i : Nat) : (s.setCalMin k v).maxOf i = s.maxOf i := rfl

@[simp] theorem setCalMax_reads_word (k v : Nat) (i : Nat) : (s.setCalMax k v).word i = s.word i := rfl
@[simp] theorem setCalMax_reads_pot (k v : Nat) (i : Nat) : (s.setCalMax k v).pot i = s.pot i := rfl
@[simp] theorem setCalMax_reads_minOf (k v : Nat) (i : Nat) : (s.setCalMax k v).minOf i = s.minOf i := rfl

@[simp] theorem note_reads_word (t : Transaction) (i : Nat) : (s.note t).word i = s.word i := rfl
@[simp] theorem note_reads_pot (t : Transaction) (i : Nat) : (s.note t).pot i = s.pot i := rfl
@[simp] theorem note_reads_minOf (t : Transaction) (i : Nat) : (s.note t).minOf i = s.minOf i := rfl
@[simp] theorem note_reads_maxOf (t : Transaction) (i : Nat) : (s.note t).maxOf i = s.maxOf i := rfl

@[simp] theorem respond_reads_word (v : Nat) (i : Nat) : (s.respond v).word i = s.word i := rfl
@[simp] theorem respond_reads_pot (v : Nat) (i : Nat) : (s.respond v).pot i = s.pot i := rfl
@[simp] theorem respond_reads_minOf (v : Nat) (i : Nat) : (s.respond v).minOf i = s.minOf i := rfl
@[simp] theorem respond_reads_maxOf (v : Nat) (i : Nat) : (s.respond v).maxOf i = s.maxOf i := rfl

@[simp] theorem cutShort_par (n : Nat) (s t : State) : (cutShort n s t).par = s.par := rfl
@[simp] theorem cutShort_btnWords (n : Nat) (s t : State) : (cutShort n s t).btnWords = List.replicate s.par.nw 0 := rfl
@[simp] theorem cutShort_dataPots (n : Nat) (s t : State) : (cutShort n s t).dataPots = List.replicate s.par.P 0 := rfl
@[simp] theorem cutShort_calMin (n : Nat) (s t : State) : (cutShort n s t).calMin = List.replicate s.par.calCount 0 := rfl
@[simp] theorem cutShort_calMax (n : Nat) (s t : State) : (cutShort n s t).calMax = List.replicate s.par.calCount 0 := rfl
@[simp] theorem cutShort_cfgDone (n : Nat) (s t : State) : (cutShort n s t).cfgDone = false := rfl
@[simp] theorem cutShort_csum (n : Nat) (s t : State) : (cutShort n s t).csum = Config.freeCsum s.draws := rfl
@[simp] theorem cutShort_rspData (n : Nat) (s t : State) :
    (cutShort n s t).rspData = Config.freeRspData (s.draws + 1) % 2 ^ s.par.rspWidth := rfl
@[simp] theorem cutShort_phase (n : Nat) (s t : State) : (cutShort n s t).phase = .idle := rfl
@[simp] theorem cutShort_host (n : Nat) (s t : State) : (cutShort n s t).host = s.host := rfl
@[simp] theorem cutShort_draws (n : Nat) (s t : State) : (cutShort n s t).draws = s.draws + 2 := rfl

@[simp] theorem noResponse_reads_word (i : Nat) : s.noResponse.word i = s.word i := rfl
@[simp] theorem noResponse_reads_pot (i : Nat) : s.noResponse.pot i = s.pot i := rfl
@[simp] theorem noResponse_reads_minOf (i : Nat) : s.noResponse.minOf i = s.minOf i := rfl
@[simp] theorem noResponse_reads_maxOf (i : Nat) : s.noResponse.maxOf i = s.maxOf i := rfl

@[simp] theorem releaseCsum_reads_word (i : Nat) : s.releaseCsum.word i = s.word i := rfl
@[simp] theorem releaseCsum_reads_pot (i : Nat) : s.releaseCsum.pot i = s.pot i := rfl
@[simp] theorem releaseCsum_reads_minOf (i : Nat) : s.releaseCsum.minOf i = s.minOf i := rfl
@[simp] theorem releaseCsum_reads_maxOf (i : Nat) : s.releaseCsum.maxOf i = s.maxOf i := rfl

@[simp] theorem setConfigured_reads_word (i : Nat) : s.setConfigured.word i = s.word i := rfl
@[simp] theorem setConfigured_reads_pot (i : Nat) : s.setConfigured.pot i = s.pot i := rfl
@[simp] theorem setConfigured_reads_minOf (i : Nat) : s.setConfigured.minOf i = s.minOf i := rfl
@[simp] theorem setConfigured_reads_maxOf (i : Nat) : s.setConfigured.maxOf i = s.maxOf i := rfl

@[simp] theorem configurePin_reads_word (id : PinId) (m : PinMode) (i : Nat) : (configurePin id m s).word i = s.word i := rfl
@[simp] theorem configurePin_reads_pot (id : PinId) (m : PinMode) (i : Nat) : (configurePin id m s).pot i = s.pot i := rfl
@[simp] theorem configurePin_reads_minOf (id : PinId) (m : PinMode) (i : Nat) : (configurePin id m s).minOf i = s.minOf i := rfl
@[simp] theorem configurePin_reads_maxOf (id : PinId) (m : PinMode) (i : Nat) : (configurePin id m s).maxOf i = s.maxOf i := rfl

@[simp] theorem sinkWrite_reads_word (b : Byte) (i : Nat) : (sinkWrite b s).word i = s.word i := rfl
@[simp] theorem sinkWrite_reads_pot (b : Byte) (i : Nat) : (sinkWrite b s).pot i = s.pot i := rfl
@[simp] theorem sinkWrite_reads_minOf (b : Byte) (i : Nat) : (sinkWrite b s).minOf i = s.minOf i := rfl
@[simp] theorem sinkWrite_reads_maxOf (b : Byte) (i : Nat) : (sinkWrite b s).maxOf i = s.maxOf i := rfl

@[simp] theorem diagEmit_reads_word (e : DiagEvent) (i : Nat) : (diagEmit e s).word i = s.word i := rfl
@[simp] theorem diagEmit_reads_pot (e : DiagEvent) (i : Nat) : (diagEmit e s).pot i = s.pot i := rfl
@[simp] theorem diagEmit_reads_minOf (e : DiagEvent) (i : Nat) : (diagEmit e s).minOf i = s.minOf i := rfl
@[simp] theorem diagEmit_reads_maxOf (e : DiagEvent) (i : Nat) : (diagEmit e s).maxOf i = s.maxOf i := rfl

@[simp] theorem put_reads_word (b : Byte) (i : Nat) : (put b s).word i = s.word i := rfl
@[simp] theorem put_reads_pot (b : Byte) (i : Nat) : (put b s).pot i = s.pot i := rfl
@[simp] theorem put_reads_minOf (b : Byte) (i : Nat) : (put b s).minOf i = s.minOf i := rfl
@[simp] theorem put_reads_maxOf (b : Byte) (i : Nat) : (put b s).maxOf i = s.maxOf i := rfl

@[simp] theorem readDigital_reads_word (id : PinId) (i : Nat) : (readDigital id s).2.word i = s.word i := rfl
@[simp] theorem readDigital_reads_pot (id : PinId) (i : Nat) : (readDigital id s).2.pot i = s.pot i := rfl
@[simp] theorem readDigital_reads_minOf (id : PinId) (i : Nat) : (readDigital id s).2.minOf i = s.minOf i := rfl
@[simp] theorem readDigital_reads_maxOf (id : PinId) (i : Nat) : (readDigital id s).2.maxOf i = s.maxOf i := rfl

@[simp] theorem readAnalog_reads_word (id : PinId) (i : Nat) : (readAnalog id s).2.word i = s.word i := rfl
@[simp] theorem readAnalog_reads_pot (id : PinId) (i : Nat) : (readAnalog id s).2.pot i = s.pot i := rfl
@[simp] theorem readAnalog_reads_minOf (id : PinId) (i : Nat) : (readAnalog id s).2.minOf i = s.minOf i := rfl
@[simp] theorem readAnalog_reads_maxOf (id : PinId) (i : Nat) : (readAnalog id s).2.maxOf i = s.maxOf i := rfl

@[simp] theorem diagInAvail_reads_word (i : Nat) : (diagInAvail s).2.word i = s.word i := rfl
@[simp] theorem diagInAvail_reads_pot (i : Nat) : (diagInAvail s).2.pot i = s.pot i := rfl
@[simp] theorem diagInAvail_reads_minOf (i : Nat) : (diagInAvail s).2.minOf i = s.minOf i := rfl
@[simp] theorem diagInAvail_reads_maxOf (i : Nat) : (diagInAvail s).2.maxOf i = s.maxOf i := rfl

@[simp] theorem readDigital_answer (id : PinId) : (readDigital id s).1 = s.env.digitalAnswer 0 := rfl

@[simp] theorem readAnalog_answer (id : PinId) :
    (readAnalog id s).1 = s.env.analogAnswer s.par.C 0 := rfl

@[simp] theorem diagInAvail_answer : (diagInAvail s).1 = s.env.doneAnswer 0 := rfl

theorem word_of_lt {j : Nat} (h : j < s.btnWords.length) : s.word j = s.btnWords[j] := by
  simp [State.word, h]

theorem pot_of_lt {k : Nat} (h : k < s.dataPots.length) : s.pot k = s.dataPots[k] := by
  simp [State.pot, h]

theorem minOf_of_lt {k : Nat} (h : k < s.calMin.length) : s.minOf k = s.calMin[k] := by
  simp [State.minOf, h]

theorem maxOf_of_lt {k : Nat} (h : k < s.calMax.length) : s.maxOf k = s.calMax[k] := by
  simp [State.maxOf, h]

/-- A write of word `j` is seen at `j` and nowhere else. -/
theorem setWord_word {j v : Nat} (i : Nat) (h : j < s.btnWords.length) :
    (s.setWord j v).word i = if i = j then v % 2 ^ s.par.W else s.word i := by
  by_cases hi : i = j
  · subst hi; simp [State.word, State.setWord, List.getD_eq_getElem?_getD, h]
  · simp [State.word, State.setWord, List.getD_eq_getElem?_getD, Ne.symm hi, hi]

/-- A write of value `k` is seen at `k` and nowhere else. -/
theorem setPot_pot {k v : Nat} (i : Nat) (h : k < s.dataPots.length) :
    (s.setPot k v).pot i = if i = k then v % 2 ^ (8 * s.par.V) else s.pot i := by
  by_cases hi : i = k
  · subst hi; simp [State.pot, State.setPot, List.getD_eq_getElem?_getD, h]
  · simp [State.pot, State.setPot, List.getD_eq_getElem?_getD, Ne.symm hi, hi]

/-- A write of `cal_min[k]` is seen there and nowhere else. -/
theorem setCalMin_minOf {k v : Nat} (i : Nat) (h : k < s.calMin.length) :
    (s.setCalMin k v).minOf i = if i = k then v % 2 ^ s.par.C else s.minOf i := by
  by_cases hi : i = k
  · subst hi; simp [State.minOf, State.setCalMin, List.getD_eq_getElem?_getD, h]
  · simp [State.minOf, State.setCalMin, List.getD_eq_getElem?_getD, Ne.symm hi, hi]

/-- A write of `cal_max[k]` is seen there and nowhere else. -/
theorem setCalMax_maxOf {k v : Nat} (i : Nat) (h : k < s.calMax.length) :
    (s.setCalMax k v).maxOf i = if i = k then v % 2 ^ s.par.C else s.maxOf i := by
  by_cases hi : i = k
  · subst hi; simp [State.maxOf, State.setCalMax, List.getD_eq_getElem?_getD, h]
  · simp [State.maxOf, State.setCalMax, List.getD_eq_getElem?_getD, Ne.symm hi, hi]

end Sys2Proof.Machine
end

