-- ==== Sys2Proof/Laws/Ops.lean ====
section
/-! SUPPORT. What the shared operations do: loops, the environment's answers, and the lists the
loops fill in ascending order. -/

namespace Sys2Proof.Machine

variable {s : State}

theorem forUp_zero (f : Nat → State → State) (s : State) : forUp 0 f s = s := rfl

theorem forUp_succ (n : Nat) (f : Nat → State → State) (s : State) :
    forUp (n + 1) f s = f n (forUp n f s) := rfl

/-- A property every pass keeps holds after a loop. -/
theorem forUp_keeps {Q : State → Prop} {f : Nat → State → State} (h : ∀ k t, Q t → Q (f k t))
    (n : Nat) (hs : Q s) : Q (forUp n f s) := by
  induction n with
  | zero => exact hs
  | succ n ih => exact h n _ ih

/-- A loop that never faults is the plain loop. -/
theorem forUpFault_eq_forUp {f : Nat → State → Except Fault State} {g : Nat → State → State}
    {Q : State → Prop} (n : Nat) (hs : Q s) (hf : ∀ k < n, ∀ t, Q t → f k t = .ok (g k t))
    (hg : ∀ k t, Q t → Q (g k t)) : forUpFault n f s = .ok (forUp n g s) := by
  induction n with
  | zero => rfl
  | succ n ih =>
    rw [forUpFault, ih fun k hk => hf k (Nat.lt_succ_of_lt hk)]
    exact hf n n.lt_succ_self _ (forUp_keeps hg n hs)

/-- Filling a list in ascending order: one more element. -/
theorem set_filled {α : Type} (l : List α) (g : Nat → α) (n : Nat) (h : n < l.length) :
    ((List.range n).map g ++ l.drop n).set n (g n) = (List.range (n + 1)).map g ++ l.drop (n + 1) := by
  rw [List.set_append_right _ _ (by simp), List.range_succ, List.map_append, List.length_map,
    List.length_range, Nat.sub_self, List.drop_eq_getElem_cons h, List.set_cons_zero, List.append_assoc]
  rfl

/-- What a partly filled list holds at the next index. -/
theorem getD_filled {α : Type} (l : List α) (g : Nat → α) (n : Nat) (d : α) :
    ((List.range n).map g ++ l.drop n).getD n d = l.getD n d := by
  simp [List.getD_eq_getElem?_getD, List.getElem?_append_right]

/-- A list filled to its end. -/
theorem filled_all {α : Type} (l : List α) (g : Nat → α) {n : Nat} (h : l.length = n) :
    (List.range n).map g ++ l.drop n = (List.range n).map g := by
  simp [← h]

theorem map_range_const {α : Type} (a : α) (n : Nat) :
    (List.range n).map (fun _ => a) = List.replicate n a := by
  simp

theorem getD_map_range {α : Type} (g : Nat → α) {n k : Nat} (d : α) (h : k < n) :
    ((List.range n).map g).getD k d = g k := by
  simp [List.getD_eq_getElem?_getD, h]

/-- A list is what its reader reads. -/
theorem map_range_getD {α : Type} (l : List α) (d : α) {n : Nat} (h : l.length = n) :
    (List.range n).map (fun k => l.getD k d) = l := by
  subst h
  refine List.ext_getElem (by simp) fun i h1 h2 => ?_
  simp [h2]

@[simp] theorem afterDigital_zero (e : Env) : e.afterDigital 0 = e := by simp [Env.afterDigital]
@[simp] theorem afterAnalog_zero (e : Env) : e.afterAnalog 0 = e := by simp [Env.afterAnalog]
@[simp] theorem afterPolls_zero (e : Env) : e.afterPolls 0 = e := by simp [Env.afterPolls]

/-- Taking `m` answers after `n` is taking `n + m`. -/
theorem afterDigital_afterDigital (e : Env) (n m : Nat) :
    (e.afterDigital n).afterDigital m = e.afterDigital (n + m) := by
  simp [Env.afterDigital, Nat.add_assoc]

theorem afterAnalog_afterAnalog (e : Env) (n m : Nat) :
    (e.afterAnalog n).afterAnalog m = e.afterAnalog (n + m) := by
  simp [Env.afterAnalog, Nat.add_assoc]

theorem afterPolls_afterPolls (e : Env) (n m : Nat) :
    (e.afterPolls n).afterPolls m = e.afterPolls (n + m) := by
  simp [Env.afterPolls, Nat.add_assoc]

/-- The answers of one kind do not depend on how many of another were taken. -/
theorem afterAnalog_afterPolls (e : Env) (n m : Nat) :
    (e.afterAnalog n).afterPolls m = (e.afterPolls m).afterAnalog n := rfl

theorem digitalAnswer_afterDigital (e : Env) (n k : Nat) :
    (e.afterDigital n).digitalAnswer k = e.digitalAnswer (n + k) := by
  simp [Env.afterDigital, Env.digitalAnswer, List.getD_eq_getElem?_getD, Nat.add_assoc]

theorem analogAnswer_afterAnalog (e : Env) (c n k : Nat) :
    (e.afterAnalog n).analogAnswer c k = e.analogAnswer c (n + k) := by
  simp [Env.afterAnalog, Env.analogAnswer, List.getD_eq_getElem?_getD, Nat.add_assoc]

theorem doneAnswer_afterPolls (e : Env) (n k : Nat) :
    (e.afterPolls n).doneAnswer k = e.doneAnswer (n + k) := by
  simp [Env.afterPolls, Env.doneAnswer, List.getD_eq_getElem?_getD, Nat.add_assoc]

theorem analogAnswer_afterDigital (e : Env) (c n k : Nat) :
    (e.afterDigital n).analogAnswer c k = e.analogAnswer c k := rfl

theorem analogAnswer_afterPolls (e : Env) (c n k : Nat) :
    (e.afterPolls n).analogAnswer c k = e.analogAnswer c k := rfl

theorem doneAnswer_afterAnalog (e : Env) (n k : Nat) :
    (e.afterAnalog n).doneAnswer k = e.doneAnswer k := rfl

/-- An analog answer travels on a `C`-bit path (R123). -/
theorem analogAnswer_lt (e : Env) (c k : Nat) : e.analogAnswer c k < 2 ^ c :=
  Nat.mod_lt _ (Nat.two_pow_pos c)

/-- A loop of `configure_pin` only adds to the record. -/
theorem forUp_configurePin (id : Nat → PinId) (m : PinMode) (n : Nat) (s : State) :
    forUp n (fun i => configurePin (id i) m) s =
      { s with record := s.record ++ (List.range n).map fun i => .configurePin (id i) m } := by
  induction n with
  | zero => simp [forUp]
  | succ n ih => rw [forUp_succ, ih, List.range_succ]; simp [configurePin, State.note]

/-- What the reset input does (R135, R136). -/
theorem hostReset_eq (s : State) :
    hostReset s =
      { State.resetWith s.par with
        csum := Config.freeCsum s.draws
        rspData := Config.freeRspData (s.draws + 1) % 2 ^ s.par.rspWidth
        host := s.host
        env := s.env
        draws := s.draws + 2
        record := s.record } := rfl

/-- What a reset inside a command or a pass does, when that would have made the transactions `new`:
the registers are reset, the record holds the first `n` of `new`, and the environment has answered
the reads among them (R146). -/
theorem cutShort_eq {t : State} {new : List Transaction} (n : Nat)
    (h : t.record = s.record ++ new) :
    cutShort n s t =
      hostReset { s with record := s.record ++ new.take n, env := s.env.afterAll (new.take n) } := by
  rw [cutShort, h, List.drop_left]

/-- A reset before the first transaction is a plain reset. -/
theorem cutShort_zero (s t : State) : cutShort 0 s t = hostReset s := by
  simp [cutShort, Env.afterAll]

/-- A command that completes may be cut; one that stops, stops. -/
theorem cutOutcome_next (n : Nat) (s t : State) : cutOutcome n s (.next t) = .next (cutShort n s t) := rfl

@[simp] theorem afterAll_nil (e : Env) : e.afterAll [] = e := by simp [Env.afterAll]

/-- The environment after two batches of transactions. -/
theorem afterAll_append (e : Env) (l m : List Transaction) :
    e.afterAll (l ++ m) = (e.afterAll l).afterAll m := by
  simp [Env.afterAll, Env.afterDigital, Env.afterAnalog, Env.afterPolls, List.countP_append,
    Nat.add_assoc]

end Sys2Proof.Machine
end

