-- ==== Sys2Proof/Laws/Buttons.lean ====
section
/-! SUPPORT. What the button unit does: the loops of BTN.CONFIGURE and BTN.SAMPLE in closed form
(R65, R67, R70). -/

namespace Sys2Proof.Machine

variable {s : State}

/-- Every button has a word (R5, R10). -/
theorem div_lt_nw {p : Params} {i : Nat} (hW : 0 < p.W) (h : i < p.B) : i / p.W < p.nw := by
  have h1 : (i + p.W) / p.W ≤ (p.B + p.W - 1) / p.W := Nat.div_le_div_right (by omega)
  rw [Nat.add_div_right _ hW] at h1
  exact h1

/-- BTN.CONFIGURE (R65). -/
theorem btnConfigure_eq (s : State) :
    btnConfigure s =
      { s with record := s.record ++ (List.range s.par.B).map fun i =>
          .configurePin (s.par.btnPinAt i) (buttonMode s.par.pol) } :=
  forUp_configurePin _ _ _ _

theorem btnClear_prefix (n : Nat) (h : n ≤ s.btnWords.length) :
    forUp n (fun j t => t.setWord j 0) s =
      { s with btnWords := (List.range n).map (fun _ => 0) ++ s.btnWords.drop n } := by
  induction n with
  | zero => simp [forUp]
  | succ n ih =>
    rw [forUp_succ, ih (by omega), ← set_filled _ (fun _ => 0) n (by omega)]
    simp [State.setWord]

/-- The clear of BTN.SAMPLE (R67). -/
theorem btnClear_eq (h : s.btnWords.length = s.par.nw) :
    btnClear s = { s with btnWords := List.replicate s.par.nw 0 } := by
  rw [btnClear, btnClear_prefix _ h.ge, filled_all _ _ h, map_range_const]

/-- The packing law over the first `n` buttons. -/
def packedUpTo (p : Params) (v : Nat → Bool) (n j : Nat) : Nat :=
  ((List.range n).map fun i =>
    if i / p.W = j ∧ active p.pol (v i) = true then 2 ^ (i % p.W) else 0).sum

theorem packedWord_eq (p : Params) (v : Nat → Bool) (j : Nat) :
    packedWord p v j = packedUpTo p v p.B j := rfl

theorem packedUpTo_succ (p : Params) (v : Nat → Bool) (n j : Nat) :
    packedUpTo p v (n + 1) j =
      packedUpTo p v n j +
        if n / p.W = j ∧ active p.pol (v n) = true then 2 ^ (n % p.W) else 0 := by
  simp [packedUpTo, List.range_succ]

/-- The first `n` buttons fill only the bits below theirs (R10). -/
theorem packedUpTo_lt (p : Params) (v : Nat → Bool) (n j : Nat) (hn : n ≤ (j + 1) * p.W) :
    packedUpTo p v n j < 2 ^ (n - j * p.W) := by
  induction n with
  | zero => simp [packedUpTo]
  | succ n ih =>
    have ih := ih (by omega)
    rw [packedUpTo_succ]
    by_cases hlo : n < j * p.W
    · have hj : n / p.W < j := Nat.div_lt_of_lt_mul (by rwa [Nat.mul_comm] at hlo)
      have e1 : n - j * p.W = 0 := by omega
      rw [e1] at ih
      have : 0 < 2 ^ (n + 1 - j * p.W) := Nat.two_pow_pos _
      rw [if_neg fun h => by omega]
      simp only [pow_zero] at ih
      omega
    · have hW : 0 < p.W := by
        rcases Nat.eq_zero_or_pos p.W with h0 | h0
        · simp [h0] at hn
        · exact h0
      have hj : n / p.W = j := by
        apply Nat.div_eq_of_lt_le
        · omega
        · omega
      have hm : n % p.W = n - j * p.W := by
        have := Nat.div_add_mod n p.W
        rw [hj, Nat.mul_comm] at this
        omega
      have e2 : n + 1 - j * p.W = n - j * p.W + 1 := by omega
      rw [e2, pow_succ, hm]
      split <;> omega

/-- Buttons beyond a word leave it alone. -/
theorem packedUpTo_above (p : Params) (v : Nat → Bool) (n m j : Nat) (hW : 0 < p.W)
    (h : (j + 1) * p.W ≤ n) : packedUpTo p v (n + m) j = packedUpTo p v n j := by
  induction m with
  | zero => rfl
  | succ m ih =>
    rw [← Nat.add_assoc, packedUpTo_succ, ih, if_neg, Nat.add_zero]
    intro hh
    have : j + 1 ≤ (n + m) / p.W := (Nat.le_div_iff_mul_le hW).2 (by omega)
    omega

/-- A packed word fits its register. -/
theorem packedUpTo_lt_width (p : Params) (v : Nat → Bool) (n j : Nat) (hW : 0 < p.W) :
    packedUpTo p v n j < 2 ^ p.W := by
  by_cases h : n ≤ (j + 1) * p.W
  · refine (packedUpTo_lt p v n j h).trans_le (Nat.pow_le_pow_right (by omega) ?_)
    rw [Nat.add_mul] at h; omega
  · obtain ⟨m, rfl⟩ := Nat.exists_eq_add_of_le (Nat.le_of_not_le h)
    rw [packedUpTo_above p v _ m j hW le_rfl]
    refine (packedUpTo_lt p v _ j le_rfl).trans_le (Nat.pow_le_pow_right (by omega) ?_)
    rw [Nat.add_mul]; omega

/-- Setting button `n`'s bit in a word packed from the buttons below it adds its weight. -/
theorem packedUpTo_or (p : Params) (v : Nat → Bool) (n : Nat) (hW : 0 < p.W) :
    packedUpTo p v n (n / p.W) ||| 2 ^ (n % p.W) =
      packedUpTo p v n (n / p.W) + 2 ^ (n % p.W) := by
  have hb : packedUpTo p v n (n / p.W) < 2 ^ (n % p.W) := by
    have h1 := packedUpTo_lt p v n (n / p.W)
      (by have := Nat.div_add_mod n p.W; have := Nat.mod_lt n hW; rw [Nat.add_mul, Nat.mul_comm]; omega)
    have h2 : n - n / p.W * p.W = n % p.W := by
      have := Nat.div_add_mod n p.W; rw [Nat.mul_comm] at this; omega
    rwa [h2] at h1
  rw [Nat.lor_comm, Nat.add_comm]
  simpa using (Nat.two_pow_add_eq_or_of_lt hb 1).symm

/-- The loop of BTN.SAMPLE over cleared words, after `n` buttons (R67). -/
theorem sampleButtons_prefix (hW : 0 < s.par.W) (h0 : s.btnWords = List.replicate s.par.nw 0)
    (n : Nat) (h : n ≤ s.par.B) :
    forUp n sampleButton s =
      { s with
        btnWords := (List.range s.par.nw).map (packedUpTo s.par s.env.digitalAnswer n)
        env := s.env.afterDigital n
        record := s.record ++ (List.range n).map fun i =>
          .readDigital (s.par.btnPinAt i) (s.env.digitalAnswer i) } := by
  induction n with
  | zero =>
    have h1 : (List.range s.par.nw).map (packedUpTo s.par s.env.digitalAnswer 0) = s.btnWords :=
      (map_range_const 0 s.par.nw).trans h0.symm
    simp [forUp, h1]
  | succ n ih =>
    have hj := div_lt_nw hW (Nat.lt_of_succ_le h)
    rw [forUp_succ, ih (by omega)]
    have hword : ∀ r e, State.word
        { s with btnWords := (List.range s.par.nw).map (packedUpTo s.par s.env.digitalAnswer n)
                 env := e, record := r } (n / s.par.W) =
        packedUpTo s.par s.env.digitalAnswer n (n / s.par.W) :=
      fun _ _ => getD_map_range _ _ hj
    have hset : ((List.range s.par.nw).map (packedUpTo s.par s.env.digitalAnswer n)).set (n / s.par.W)
        (packedUpTo s.par s.env.digitalAnswer n (n / s.par.W) + 2 ^ (n % s.par.W)) =
        (List.range s.par.nw).map fun j => packedUpTo s.par s.env.digitalAnswer n j +
          if n / s.par.W = j then 2 ^ (n % s.par.W) else 0 := by
      refine List.ext_getElem (by simp) fun i h1 h2 => ?_
      rw [List.getElem_set]
      by_cases hi : n / s.par.W = i <;> simp [hi]
    by_cases ha : active s.par.pol (s.env.digitalAnswer n) = true
    · have hlt : packedUpTo s.par s.env.digitalAnswer n (n / s.par.W) + 2 ^ (n % s.par.W) < 2 ^ s.par.W := by
        have := packedUpTo_lt_width s.par s.env.digitalAnswer (n + 1) (n / s.par.W) hW
        rwa [packedUpTo_succ, if_pos ⟨rfl, ha⟩] at this
      simp only [sampleButton, readDigital, digitalAnswer_afterDigital, Nat.add_zero, ha, if_true,
        setButton, State.note, State.setWord, hword, packedUpTo_or _ _ _ hW, Nat.mod_eq_of_lt hlt,
        hset, afterDigital_afterDigital]
      simp [packedUpTo_succ, ha, List.range_succ]
    · simp [sampleButton, readDigital, digitalAnswer_afterDigital, ha, State.note,
        afterDigital_afterDigital, packedUpTo_succ, List.range_succ]

/-- BTN.SAMPLE: the packing law, one read per button in order (R67, R70). -/
theorem btnSample_eq (hW : 0 < s.par.W) (h : s.btnWords.length = s.par.nw) :
    btnSample s =
      { s with
        btnWords := packedWords s.par s.env.digitalAnswer
        env := s.env.afterDigital s.par.B
        record := s.record ++ (List.range s.par.B).map fun i =>
          .readDigital (s.par.btnPinAt i) (s.env.digitalAnswer i) } := by
  rw [btnSample, btnClear_eq h]
  exact sampleButtons_prefix (s := { s with btnWords := List.replicate s.par.nw 0 }) hW rfl _ le_rfl

end Sys2Proof.Machine
end

