-- ==== Sys2Proof/Laws/Frame.lean ====
section
/-! SUPPORT. What the frame encoder does: the drains and the checksum in closed form (R95 to
R100). -/

namespace Sys2Proof.Machine

variable {s : State}

/-- The state after `PUT` of each of `bs` in order (R95). -/
def putAll (bs : List Byte) (s : State) : State :=
  { s with
    csum := s.csum - BitVec.ofNat 16 (byteSum bs)
    record := s.record ++ bs.map .sinkWrite }

@[simp] theorem putAll_par (bs : List Byte) (s : State) : (putAll bs s).par = s.par := rfl
@[simp] theorem putAll_btnWords (bs : List Byte) (s : State) : (putAll bs s).btnWords = s.btnWords := rfl
@[simp] theorem putAll_dataPots (bs : List Byte) (s : State) : (putAll bs s).dataPots = s.dataPots := rfl
@[simp] theorem putAll_calMin (bs : List Byte) (s : State) : (putAll bs s).calMin = s.calMin := rfl
@[simp] theorem putAll_calMax (bs : List Byte) (s : State) : (putAll bs s).calMax = s.calMax := rfl
@[simp] theorem putAll_cfgDone (bs : List Byte) (s : State) : (putAll bs s).cfgDone = s.cfgDone := rfl
@[simp] theorem putAll_csum (bs : List Byte) (s : State) : (putAll bs s).csum = s.csum - BitVec.ofNat 16 (byteSum bs) := rfl
@[simp] theorem putAll_rspData (bs : List Byte) (s : State) : (putAll bs s).rspData = s.rspData := rfl
@[simp] theorem putAll_phase (bs : List Byte) (s : State) : (putAll bs s).phase = s.phase := rfl
@[simp] theorem putAll_host (bs : List Byte) (s : State) : (putAll bs s).host = s.host := rfl
@[simp] theorem putAll_env (bs : List Byte) (s : State) : (putAll bs s).env = s.env := rfl
@[simp] theorem putAll_draws (bs : List Byte) (s : State) : (putAll bs s).draws = s.draws := rfl
@[simp] theorem putAll_record (bs : List Byte) (s : State) : (putAll bs s).record = s.record ++ bs.map .sinkWrite := rfl
@[simp] theorem putAll_reads_word (bs : List Byte) (s : State) (i : Nat) : (putAll bs s).word i = s.word i := rfl
@[simp] theorem putAll_reads_pot (bs : List Byte) (s : State) (i : Nat) : (putAll bs s).pot i = s.pot i := rfl

@[simp] theorem byteSum_nil : byteSum [] = 0 := rfl

@[simp] theorem byteSum_cons (b : Byte) (bs : List Byte) : byteSum (b :: bs) = b.toNat + byteSum bs := by
  simp [byteSum]

@[simp] theorem byteSum_append (as bs : List Byte) : byteSum (as ++ bs) = byteSum as + byteSum bs := by
  simp [byteSum]

theorem putAll_nil (s : State) : putAll [] s = s := by simp [putAll]

theorem csum_sub_sub (c : Checksum) (a b : Nat) :
    c - BitVec.ofNat 16 a - BitVec.ofNat 16 b = c - BitVec.ofNat 16 (a + b) := by
  rw [BitVec.ofNat_add, BitVec.sub_sub]

theorem putAll_putAll (as bs : List Byte) (s : State) :
    putAll bs (putAll as s) = putAll (as ++ bs) s := by
  simp [putAll, csum_sub_sub]

theorem put_eq (b : Byte) (s : State) : put b s = putAll [b] s := by
  have h : b.setWidth 16 = BitVec.ofNat 16 (byteSum [b]) :=
    BitVec.eq_of_toNat_eq (by simp [BitVec.toNat_setWidth])
  simp only [put, putAll, sinkWrite, State.note, h, List.map]

theorem fieldBytes_succ (n v : Nat) :
    fieldBytes (n + 1) v = fieldBytes n v ++ [BitVec.ofNat 8 (v >>> (8 * n))] := by
  simp [fieldBytes, List.range_succ]

/-- DRAIN.WORD(j) after `t` bytes (R97). -/
theorem drainWord_prefix {j : Nat} (hj : j < s.btnWords.length) (hv : s.word j < 2 ^ s.par.W) (t : Nat) :
    forUp t (fun _ => drainWordByte j) s =
      putAll (fieldBytes t (s.word j)) { s with btnWords := s.btnWords.set j (s.word j >>> (8 * t)) } := by
  induction t with
  | zero =>
    have : s.btnWords.set j (s.word j) = s.btnWords := by rw [word_of_lt s hj]; simp
    simp [forUp, fieldBytes, putAll_nil, this]
  | succ t ih =>
    have hw : ∀ c r, State.word
        { s with btnWords := s.btnWords.set j (s.word j >>> (8 * t)), csum := c, record := r } j =
        s.word j >>> (8 * t) := by
      intro c r
      simp [State.word, List.getD_eq_getElem?_getD, hj]
    have hm : s.word j >>> (8 * t + 8) < 2 ^ s.par.W := by
      rw [Nat.shiftRight_eq_div_pow]
      exact (Nat.div_le_self _ _).trans_lt hv
    rw [forUp_succ, ih, drainWordByte, put_eq, fieldBytes_succ, ← putAll_putAll]
    simp only [putAll, hw, State.setWord, List.set_set, ← Nat.shiftRight_add, Nat.mod_eq_of_lt hm]
    rfl

/-- DRAIN.WORD(j): the word's bytes, least significant first, and the word ends at 0 (R97). -/
theorem drainWord_eq {j : Nat} (hj : j < s.btnWords.length) (hW : 8 * s.par.wb = s.par.W)
    (hv : s.word j < 2 ^ s.par.W) :
    drainWord j s = putAll (fieldBytes s.par.wb (s.word j)) { s with btnWords := s.btnWords.set j 0 } := by
  rw [drainWord, drainWord_prefix hj hv, hW, Nat.shiftRight_eq_div_pow, Nat.div_eq_of_lt hv]

/-- DRAIN.POT(k) after `t` bytes (R98). -/
theorem drainPot_prefix {k : Nat} (hk : k < s.dataPots.length) (hv : s.pot k < 2 ^ (8 * s.par.V)) (t : Nat) :
    forUp t (fun _ => drainPotByte k) s =
      putAll (fieldBytes t (s.pot k)) { s with dataPots := s.dataPots.set k (s.pot k >>> (8 * t)) } := by
  induction t with
  | zero =>
    have : s.dataPots.set k (s.pot k) = s.dataPots := by rw [pot_of_lt s hk]; simp
    simp [forUp, fieldBytes, putAll_nil, this]
  | succ t ih =>
    have hw : ∀ c r, State.pot
        { s with dataPots := s.dataPots.set k (s.pot k >>> (8 * t)), csum := c, record := r } k =
        s.pot k >>> (8 * t) := by
      intro c r
      simp [State.pot, List.getD_eq_getElem?_getD, hk]
    have hm : s.pot k >>> (8 * t + 8) < 2 ^ (8 * s.par.V) := by
      rw [Nat.shiftRight_eq_div_pow]
      exact (Nat.div_le_self _ _).trans_lt hv
    rw [forUp_succ, ih, drainPotByte, put_eq, fieldBytes_succ, ← putAll_putAll]
    simp only [putAll, hw, State.setPot, List.set_set, ← Nat.shiftRight_add, Nat.mod_eq_of_lt hm]
    rfl

/-- DRAIN.POT(k): the value's bytes, least significant first, and the value ends at 0 (R98). -/
theorem drainPot_eq {k : Nat} (hk : k < s.dataPots.length) (hv : s.pot k < 2 ^ (8 * s.par.V)) :
    drainPot k s = putAll (fieldBytes s.par.V (s.pot k)) { s with dataPots := s.dataPots.set k 0 } := by
  rw [drainPot, drainPot_prefix hk hv, Nat.shiftRight_eq_div_pow, Nat.div_eq_of_lt hv]

/-- The words' bytes of the drain loop, after `n` words. -/
theorem drainWords_prefix (hW : 8 * s.par.wb = s.par.W) (hv : ∀ v ∈ s.btnWords, v < 2 ^ s.par.W)
    (n : Nat) (h : n ≤ s.btnWords.length) :
    forUp n drainWord s =
      putAll ((List.range n).flatMap fun j => fieldBytes s.par.wb (s.word j))
        { s with btnWords := (List.range n).map (fun _ => 0) ++ s.btnWords.drop n } := by
  induction n with
  | zero => simp [forUp, putAll_nil]
  | succ n ih =>
    have hn : n < s.btnWords.length := h
    have hword : ∀ c r, State.word
        { s with btnWords := (List.range n).map (fun _ => 0) ++ s.btnWords.drop n, csum := c, record := r } n =
        s.word n := fun _ _ => getD_filled _ _ _ _
    have hlt : s.word n < 2 ^ s.par.W := by rw [word_of_lt s hn]; exact hv _ (List.getElem_mem hn)
    rw [forUp_succ, ih (by omega), drainWord_eq]
    · simp only [putAll, hword, List.range_succ (n := n), List.flatMap_append, csum_sub_sub, byteSum_append]
      rw [set_filled _ (fun _ => 0) n hn]
      simp [List.range_succ]
    · simpa [putAll] using by omega
    · exact hW
    · simpa only [putAll, hword] using hlt

/-- The values' bytes of the drain loop, after `n` channels. -/
theorem drainPots_prefix (hv : ∀ v ∈ s.dataPots, v < 2 ^ (8 * s.par.V))
    (n : Nat) (h : n ≤ s.dataPots.length) :
    forUp n drainPot s =
      putAll ((List.range n).flatMap fun k => fieldBytes s.par.V (s.pot k))
        { s with dataPots := (List.range n).map (fun _ => 0) ++ s.dataPots.drop n } := by
  induction n with
  | zero => simp [forUp, putAll_nil]
  | succ n ih =>
    have hn : n < s.dataPots.length := h
    have hpot : ∀ c r, State.pot
        { s with dataPots := (List.range n).map (fun _ => 0) ++ s.dataPots.drop n, csum := c, record := r } n =
        s.pot n := fun _ _ => getD_filled _ _ _ _
    have hlt : s.pot n < 2 ^ (8 * s.par.V) := by rw [pot_of_lt s hn]; exact hv _ (List.getElem_mem hn)
    rw [forUp_succ, ih (by omega), drainPot_eq]
    · simp only [putAll, hpot, List.range_succ (n := n), List.flatMap_append, csum_sub_sub, byteSum_append]
      rw [set_filled _ (fun _ => 0) n hn]
      simp [List.range_succ]
    · simpa [putAll] using by omega
    · simpa only [putAll, hpot] using hlt

/-- Reading a bank by index reads the bank. -/
theorem flatMap_range_getD (l : List Nat) (f : Nat → List Byte) {n : Nat} (h : l.length = n) :
    ((List.range n).flatMap fun k => f (l.getD k 0)) = l.flatMap f := by
  conv_rhs => rw [← map_range_getD l 0 h]
  rw [List.flatMap_map]

/-- The two trailer bytes (R100). -/
theorem trailer_bytes (c : Checksum) : [c.extractLsb' 0 8, c.extractLsb' 8 8] = fieldBytes 2 c.toNat := by
  simp [fieldBytes, List.range_succ, BitVec.extractLsb']

theorem putTrailer_eq (s : State) :
    putTrailer s = { s with record := s.record ++ (fieldBytes 2 s.csum.toNat).map .sinkWrite } := by
  simp [putTrailer, sinkWrite, State.note, ← trailer_bytes]

/-- The header: accumulator at `0xFFFF` less the two header bytes (R95, R96). -/
theorem putHeader_eq (s : State) :
    putHeader s = putAll [BitVec.ofNat 8 s.par.frameLen, frameTag] { s with csum := csumInit } := by
  rw [putHeader, put_eq, put_eq, putAll_putAll]; rfl

/-- ENCODE: one frame to the sink, both banks drained, `csum` free (R95, R101). -/
theorem encodeFrame_eq (hW : 8 * s.par.wb = s.par.W) (hn : s.btnWords.length = s.par.nw)
    (hp : s.dataPots.length = s.par.P) (hw : ∀ v ∈ s.btnWords, v < 2 ^ s.par.W)
    (hv : ∀ v ∈ s.dataPots, v < 2 ^ (8 * s.par.V)) :
    encodeFrame s =
      { s with
        btnWords := List.replicate s.par.nw 0
        dataPots := List.replicate s.par.P 0
        csum := Config.freeCsum s.draws
        draws := s.draws + 1
        record := s.record ++ (frameBytes s.par s.btnWords s.dataPots).map .sinkWrite } := by
  have e1 : (List.range s.par.nw).map (fun _ => 0) ++ s.btnWords.drop s.par.nw =
      List.replicate s.par.nw 0 := (filled_all _ _ hn).trans (map_range_const _ _)
  have e2 : (List.range s.par.P).map (fun _ => 0) ++ s.dataPots.drop s.par.P =
      List.replicate s.par.P 0 := (filled_all _ _ hp).trans (map_range_const _ _)
  have h1 : forUp s.par.nw drainWord (putHeader s) =
      putAll ([BitVec.ofNat 8 s.par.frameLen, frameTag] ++ s.btnWords.flatMap (fieldBytes s.par.wb))
        { s with csum := csumInit, btnWords := List.replicate s.par.nw 0 } := by
    rw [putHeader_eq, drainWords_prefix (by simpa using hW) (by simpa using hw) _ (by simp [hn]),
      ← putAll_putAll, ← flatMap_range_getD _ _ hn, ← e1]
    simp [putAll, State.word]
  have h2 : forUp s.par.P drainPot (forUp s.par.nw drainWord (putHeader s)) =
      putAll (summedBytes s.par s.btnWords s.dataPots)
        { s with csum := csumInit, btnWords := List.replicate s.par.nw 0,
                 dataPots := List.replicate s.par.P 0 } := by
    have e : summedBytes s.par s.btnWords s.dataPots =
        ([BitVec.ofNat 8 s.par.frameLen, frameTag] ++ s.btnWords.flatMap (fieldBytes s.par.wb)) ++
          s.dataPots.flatMap (fieldBytes s.par.V) := by simp [summedBytes, payloadBytes]
    rw [h1, drainPots_prefix (by simpa using hv) _ (by simp [hp]), e,
      ← putAll_putAll, ← flatMap_range_getD s.dataPots _ hp, ← e2]
    simp [putAll, State.pot, csum_sub_sub, Nat.add_assoc]
  rw [encodeFrame, h2, putTrailer_eq]
  simp [putAll, State.releaseCsum, frameBytes, checksumOf]

end Sys2Proof.Machine
end

