-- ==== Sys2Proof/Laws/Operands.lean ====
section
/-! SUPPORT. What the index operands select (R20, R34, R39). -/

namespace Sys2Proof.Machine

variable (s : State)

theorem readWordOperand_eq (j : Idx) :
    s.readWordOperand j = if j.toNat < s.par.nw then s.word j.toNat else 0 := by
  by_cases h : j.toNat < s.par.nw <;> simp [State.readWordOperand, wordOperand, h]

theorem readPotOperand_eq (k : Idx) :
    s.readPotOperand k = if k.toNat < s.par.P then s.pot k.toNat else 0 := by
  by_cases h : k.toNat < s.par.P <;> simp [State.readPotOperand, channelOperand, h]

theorem readCalOperand_eq (e : Idx) :
    s.readCalOperand e =
      if s.par.calEn = true ∧ e.toNat < 2 * s.par.P then
        if e.toNat % 2 = 0 then s.minOf (e.toNat / 2) else s.maxOf (e.toNat / 2)
      else 0 := by
  by_cases h : s.par.calEn = true ∧ e.toNat < 2 * s.par.P
  · by_cases h2 : e.toNat % 2 = 0 <;> simp [State.readCalOperand, calOperand, h, h2]
  · simp only [State.readCalOperand, calOperand, if_neg h]

theorem writeCalOperand_eq (e : Idx) (v : Nat) :
    s.writeCalOperand e v =
      if s.par.calEn = true ∧ e.toNat < 2 * s.par.P then
        if e.toNat % 2 = 0 then s.setCalMin (e.toNat / 2) v else s.setCalMax (e.toNat / 2) v
      else s := by
  by_cases h : s.par.calEn = true ∧ e.toNat < 2 * s.par.P
  · by_cases h2 : e.toNat % 2 = 0 <;> simp [State.writeCalOperand, calOperand, h, h2]
  · simp only [State.writeCalOperand, calOperand, if_neg h]

end Sys2Proof.Machine
end

