-- ==== Sys2Proof/Laws/PerInstr.lean ====
section
/-! SUPPORT. Facts about every command, one lemma per constructor: where the encoder puts the
operation code and the index field (R45, R56). -/

namespace Sys2Proof.Laws.EncodedOpcode

/-- The operation code stands in bits `[2:0]` and the index field in bits `[11:3]` (R45). -/
def Statement (i : Instr) : Prop :=
  encode i % 2 ^ 3 = i.opcode.toNat ∧ encode i / 2 ^ 3 % 2 ^ 9 = i.idxField.toNat

theorem of_fields (d : Nat) (x : Idx) (o : Opcode) :
    (d * 2 ^ 12 + x.toNat * 2 ^ 3 + o.toNat) % 2 ^ 3 = o.toNat ∧
      (d * 2 ^ 12 + x.toNat * 2 ^ 3 + o.toNat) / 2 ^ 3 % 2 ^ 9 = x.toNat := by
  have := x.isLt
  have := o.isLt
  omega

theorem nop : Statement .nop := of_fields _ _ _
theorem configure : Statement .configure := of_fields _ _ _
theorem sample : Statement .sample := of_fields _ _ _
theorem emit : Statement .emit := of_fields _ _ _
theorem rdword (j : Idx) : Statement (.rdword j) := of_fields _ _ _
theorem rdpot (k : Idx) : Statement (.rdpot k) := of_fields _ _ _
theorem rdcal (e : Idx) : Statement (.rdcal e) := of_fields _ _ _
theorem wrcal (e : Idx) (v : Nat) : Statement (.wrcal e v) := of_fields _ _ _

end Sys2Proof.Laws.EncodedOpcode
end

