-- ==== Sys2Proof/Laws/Remap.lean ====
section
/-! SUPPORT. The remapper is the clamped floor of R81, and the laws R82 and R89 rest on. -/

namespace Sys2Proof.Machine

/-- Floor division of integers is the floor of the rational quotient (R82 (iii)). -/
theorem fdiv_eq_floor (a b : Int) (hb : b ≠ 0) : Int.fdiv a b = ⌊(a : Rat) / b⌋ := by
  have key : ∀ (a : Int) (d : Nat), Int.fdiv a d = ⌊(a : Rat) / (d : Int)⌋ := by
    intro a d
    rw [Int.fdiv_eq_ediv_of_nonneg _ (Int.natCast_nonneg d), Int.cast_natCast,
      Rat.floor_intCast_div_natCast]
  rcases lt_or_gt_of_ne hb with h | h
  · obtain ⟨d, hd⟩ := Int.eq_ofNat_of_zero_le (Int.neg_nonneg_of_nonpos h.le)
    have h1 := key (-a) d
    rw [← hd, Int.neg_fdiv_neg] at h1
    rw [h1]; push_cast; rw [neg_div_neg_eq]
  · obtain ⟨d, rfl⟩ := Int.eq_ofNat_of_zero_le h.le
    exact key a d

/-- The remapper answers the formula of R81 on every pair but a degenerate one. -/
theorem remap_eq {r raw mn mx : Nat} (h : mn ≠ mx) :
    remap r raw mn mx = some (remapFormula r raw mn mx) := by
  have hb : (mx : Int) - mn ≠ 0 := by omega
  have hq : Int.fdiv (((raw : Int) - mn) * r) ((mx : Int) - mn) =
      ⌊(((raw : Rat) - mn) * r) / ((mx : Rat) - mn)⌋ := by
    rw [fdiv_eq_floor _ _ hb]; push_cast; rfl
  rw [remap, if_neg h, remapFormula, hq]
  generalize ⌊(((raw : Rat) - mn) * r) / ((mx : Rat) - mn)⌋ = q
  dsimp only
  split
  · congr 1; omega
  · split <;> congr 1 <;> omega

/-- On a degenerate pair the rule gives no value (R82 (iv)). -/
theorem remap_degenerate (r raw mn : Nat) : remap r raw mn mn = none := by simp [remap]

/-- "The result is always in `[0, R]`" (R81). -/
theorem remapFormula_le (r raw mn mx : Nat) : remapFormula r raw mn mx ≤ r := by
  unfold remapFormula; omega

end Sys2Proof.Machine
end

