-- ==== Sys2Proof/Laws/Pots.lean ====
section
/-! SUPPORT. What the potentiometer unit does: its loops in closed form (R75 to R84). -/

namespace Sys2Proof.Machine

variable {s : State}

/-- The pins of POT.CONFIGURE (R75). -/
theorem potPins_eq (s : State) :
    potPins s =
      { s with record := s.record ++ (List.range s.par.P).map fun k =>
          .configurePin (s.par.potPinAt k) .analogInput } :=
  forUp_configurePin _ _ _ _

theorem unsignedMax_lt (p : Params) : p.unsignedMax < 2 ^ p.C :=
  Nat.sub_lt (Nat.two_pow_pos _) Nat.one_pos

theorem autocalInit_prefix (n : Nat) (h1 : n ≤ s.calMin.length) (h2 : n ≤ s.calMax.length) :
    forUp n autocalInitChannel s =
      { s with
        calMin := (List.range n).map (fun _ => s.par.unsignedMax) ++ s.calMin.drop n
        calMax := (List.range n).map (fun _ => 0) ++ s.calMax.drop n } := by
  induction n with
  | zero => simp [forUp]
  | succ n ih =>
    rw [forUp_succ, ih (by omega) (by omega), ← set_filled _ (fun _ => s.par.unsignedMax) n (by omega),
      ← set_filled _ (fun _ => 0) n (by omega)]
    simp [autocalInitChannel, State.setCalMin, State.setCalMax, Nat.mod_eq_of_lt (unsignedMax_lt s.par)]

/-- AUTOCAL.INIT (R76). -/
theorem autocalInit_eq (h1 : s.calMin.length = s.par.P) (h2 : s.calMax.length = s.par.P) :
    autocalInit s =
      { s with
        calMin := List.replicate s.par.P s.par.unsignedMax
        calMax := List.replicate s.par.P 0 } := by
  rw [autocalInit, autocalInit_prefix _ h1.ge h2.ge, filled_all _ _ h1, filled_all _ _ h2,
    map_range_const, map_range_const]

/-- CAL.UPDATE sets the pair to what R78 gives, in registers wide enough for it. -/
theorem calUpdate_eq {k x : Nat} (h1 : k < s.calMin.length) (h2 : k < s.calMax.length)
    (hx : x < 2 ^ s.par.C) :
    calUpdate k x s =
      { s with
        calMin := s.calMin.set k (calUpdatePair x (s.minOf k) (s.maxOf k)).1
        calMax := s.calMax.set k (calUpdatePair x (s.minOf k) (s.maxOf k)).2 } := by
  have e1 : s.calMin.set k (s.minOf k) = s.calMin := by rw [minOf_of_lt s h1]; simp
  have e2 : s.calMax.set k (s.maxOf k) = s.calMax := by rw [maxOf_of_lt s h2]; simp
  rw [calUpdate, calUpdatePair]
  split
  · simp [State.setCalMin, Nat.mod_eq_of_lt hx, e2]
  · split
    · simp [State.setCalMax, Nat.mod_eq_of_lt hx, e1]
    · simp [e1, e2]

theorem sweep_prefix (n : Nat) (h1 : n ≤ s.calMin.length) (h2 : n ≤ s.calMax.length) :
    forUp n sweepChannel s =
      { s with
        calMin := (List.range n).map (fun k =>
          (calUpdatePair (s.env.analogAnswer s.par.C k) (s.minOf k) (s.maxOf k)).1) ++ s.calMin.drop n
        calMax := (List.range n).map (fun k =>
          (calUpdatePair (s.env.analogAnswer s.par.C k) (s.minOf k) (s.maxOf k)).2) ++ s.calMax.drop n
        env := s.env.afterAnalog n
        record := s.record ++ (List.range n).map fun k =>
          .readAnalog (s.par.potPinAt k) (s.env.analogAnswer s.par.C k) } := by
  induction n with
  | zero => simp [forUp]
  | succ n ih =>
    rw [forUp_succ, ih (by omega) (by omega)]
    simp only [sweepChannel, readAnalog, State.note, analogAnswer_afterAnalog, Nat.add_zero,
      afterAnalog_afterAnalog]
    rw [calUpdate_eq]
    · simp only [State.minOf, State.maxOf, getD_filled]
      rw [← set_filled s.calMin _ n (by omega), ← set_filled s.calMax _ n (by omega)]
      simp [List.range_succ]
    · simpa using by omega
    · simpa using by omega
    · exact analogAnswer_lt _ _ _

/-- One sweep: one sample of every channel in order, each channel's pair updated (R77, R78). -/
theorem sweep_eq (h1 : s.calMin.length = s.par.P) (h2 : s.calMax.length = s.par.P) :
    sweep s =
      { s with
        calMin := (List.range s.par.P).map fun k =>
          (calUpdatePair (s.env.analogAnswer s.par.C k) (s.minOf k) (s.maxOf k)).1
        calMax := (List.range s.par.P).map fun k =>
          (calUpdatePair (s.env.analogAnswer s.par.C k) (s.minOf k) (s.maxOf k)).2
        env := s.env.afterAnalog s.par.P
        record := s.record ++ (List.range s.par.P).map fun k =>
          .readAnalog (s.par.potPinAt k) (s.env.analogAnswer s.par.C k) } := by
  rw [sweep, sweep_prefix _ h1.ge h2.ge, filled_all _ _ h1, filled_all _ _ h2]

theorem calCorrect_prefix (hm : s.par.maxRaw < 2 ^ s.par.C) (n : Nat) (h1 : n ≤ s.calMin.length)
    (h2 : n ≤ s.calMax.length) :
    forUp n calCorrectChannel s =
      { s with
        calMin := (List.range n).map (fun k => (correctedPair s.par (s.minOf k, s.maxOf k)).1) ++
          s.calMin.drop n
        calMax := (List.range n).map (fun k => (correctedPair s.par (s.minOf k, s.maxOf k)).2) ++
          s.calMax.drop n
        record := s.record ++ ((List.range n).filter fun k => s.minOf k = s.maxOf k).map fun k =>
          .diagEmit ⟨.degenerate, k, 0, 0⟩ } := by
  induction n with
  | zero => simp [forUp]
  | succ n ih =>
    have e1 : (s.calMin.drop n) = s.minOf n :: s.calMin.drop (n + 1) := by
      rw [minOf_of_lt s (by omega)]; exact List.drop_eq_getElem_cons _
    have e2 : (s.calMax.drop n) = s.maxOf n :: s.calMax.drop (n + 1) := by
      rw [maxOf_of_lt s (by omega)]; exact List.drop_eq_getElem_cons _
    rw [forUp_succ, ih (by omega) (by omega)]
    simp only [calCorrectChannel, State.minOf, State.maxOf, getD_filled]
    by_cases hd : s.calMin.getD n 0 = s.calMax.getD n 0
    · simp only [hd, if_true, State.setCalMin, State.setCalMax, diagEmit, State.note,
        Nat.zero_mod, Nat.mod_eq_of_lt hm]
      rw [e1, e2, List.set_append_right _ _ (by simp), List.set_append_right _ _ (by simp)]
      simp only [List.length_map, List.length_range, Nat.sub_self, List.set_cons_zero]
      simp only [List.getD_eq_getElem?_getD] at hd
      simp [List.range_succ, List.filter_append, hd, correctedPair]
    · simp only [hd, if_false]
      rw [e1, e2]
      simp only [List.getD_eq_getElem?_getD] at hd
      simp [List.range_succ, List.filter_append, hd, correctedPair, State.minOf, State.maxOf]

/-- CAL.CORRECT: every degenerate pair becomes `(0, MAX_RAW)`, each reported in order (R79). -/
theorem calCorrect_eq (hm : s.par.maxRaw < 2 ^ s.par.C) (h1 : s.calMin.length = s.par.P)
    (h2 : s.calMax.length = s.par.P) :
    calCorrect s =
      { s with
        calMin := (List.range s.par.P).map fun k => (correctedPair s.par (s.minOf k, s.maxOf k)).1
        calMax := (List.range s.par.P).map fun k => (correctedPair s.par (s.minOf k, s.maxOf k)).2
        record := s.record ++ correctRecord s.par fun k => (s.minOf k, s.maxOf k) } := by
  rw [calCorrect, calCorrect_prefix hm _ h1.ge h2.ge, filled_all _ _ h1, filled_all _ _ h2]
  rfl

/-- AUTOCAL.REPORT: the table, channel by channel (R80). -/
theorem autocalReport_eq (s : State) :
    autocalReport s =
      { s with record := s.record ++ reportRecord s.par fun k => (s.minOf k, s.maxOf k) } := by
  have h : ∀ n, forUp n autocalReportChannel s =
      { s with record := s.record ++ (List.range n).map fun k =>
          .diagEmit ⟨.cal, k, s.minOf k, s.maxOf k⟩ } := by
    intro n
    induction n with
    | zero => simp [forUp]
    | succ n ih =>
      rw [forUp_succ, ih, List.range_succ]
      simp [autocalReportChannel, diagEmit, State.note, State.minOf, State.maxOf]
  exact h _

theorem potClear_prefix (n : Nat) (h : n ≤ s.dataPots.length) :
    forUp n (fun k t => t.setPot k 0) s =
      { s with dataPots := (List.range n).map (fun _ => 0) ++ s.dataPots.drop n } := by
  induction n with
  | zero => simp [forUp]
  | succ n ih =>
    rw [forUp_succ, ih (by omega), ← set_filled _ (fun _ => 0) n (by omega)]
    simp [State.setPot]

/-- The clear of POT.SAMPLE (R83). -/
theorem potClear_eq (h : s.dataPots.length = s.par.P) :
    potClear s = { s with dataPots := List.replicate s.par.P 0 } := by
  rw [potClear, potClear_prefix _ h.ge, filled_all _ _ h, map_range_const]

/-- A loop that reads channel after channel and stores `g raw k`. -/
theorem sampleChannels_prefix (g : Nat → Nat → Nat) (hg : ∀ raw k, g raw k < 2 ^ (8 * s.par.V))
    {f : Nat → State → Except Fault State}
    (hf : ∀ k < s.par.P, ∀ t : State, t.par = s.par → t.calMin = s.calMin → t.calMax = s.calMax →
      f k t = .ok ((readAnalog (s.par.potPinAt k) t).2.setPot k (g (t.env.analogAnswer s.par.C 0) k)))
    (n : Nat) (hn : n ≤ s.par.P) (h : n ≤ s.dataPots.length) :
    forUpFault n f s =
      .ok { s with
        dataPots := (List.range n).map (fun k => g (s.env.analogAnswer s.par.C k) k) ++ s.dataPots.drop n
        env := s.env.afterAnalog n
        record := s.record ++ (List.range n).map fun k =>
          .readAnalog (s.par.potPinAt k) (s.env.analogAnswer s.par.C k) } := by
  induction n with
  | zero => simp [forUpFault]
  | succ n ih =>
    rw [forUpFault, ih (by omega) (by omega)]
    dsimp only
    rw [hf n hn]
    on_goal 1 => rw [← set_filled s.dataPots _ n (by omega)]
    all_goals try rfl
    simp only [readAnalog, State.setPot, State.note, analogAnswer_afterAnalog, Nat.add_zero,
      Nat.mod_eq_of_lt (hg _ _), afterAnalog_afterAnalog]
    simp [List.range_succ]

/-- POT.SAMPLE on a table without a degenerate pair: one read per channel in order, each value
stored as R83 or R84 says, and no fault. -/
theorem potSample_eq (hR : s.par.R < 2 ^ (8 * s.par.V)) (h : s.dataPots.length = s.par.P)
    (hd : s.par.calEn = true → ∀ k < s.par.P, s.minOf k ≠ s.maxOf k) :
    potSample s =
      .ok { s with
        dataPots := (List.range s.par.P).map fun k => sampledPot s (s.env.analogAnswer s.par.C k) k
        env := s.env.afterAnalog s.par.P
        record := s.record ++ (List.range s.par.P).map fun k =>
          .readAnalog (s.par.potPinAt k) (s.env.analogAnswer s.par.C k) } := by
  have hg : ∀ raw k, sampledPot s raw k < 2 ^ (8 * s.par.V) := by
    intro raw k
    unfold sampledPot
    split
    · exact (remapFormula_le _ _ _ _).trans_lt hR
    · exact Nat.mod_lt _ (Nat.two_pow_pos _)
  rw [potSample, potClear_eq h]
  rw [sampleChannels_prefix (s := { s with dataPots := List.replicate s.par.P 0 })
    (fun raw k => sampledPot s raw k) hg ?_ _ le_rfl (by simp)]
  · simp
  · intro k hk t ht h1 h2
    dsimp only at ht h1 h2 hk ⊢
    by_cases hc : s.par.calEn = true
    · have e : remap s.par.R (t.env.analogAnswer s.par.C 0) (t.minOf k) (t.maxOf k) =
          some (remapFormula s.par.R (t.env.analogAnswer s.par.C 0) (s.minOf k) (s.maxOf k)) := by
        rw [State.minOf, State.maxOf, h1, h2]
        exact remap_eq (hd hc k hk)
      simp only [hc, if_true, sampleChannelRemapped, readAnalog, e, sampledPot, ht]
    · simp [hc, sampleChannelRaw, readAnalog, sampledPot, State.setPot, State.note, ht]

/-- POT.SAMPLE stops at the first degenerate pair (R82 (iv)). -/
theorem potSample_degenerate (hc : s.par.calEn = true) {k : Nat} (hk : k < s.par.P)
    (h1 : ∀ i < k, s.minOf i ≠ s.maxOf i) (h2 : s.minOf k = s.maxOf k) :
    potSample s = .error (.degeneratePair k) := by
  have key : ∀ (f : Nat → State → Except Fault State) (t : State)
      (hf : ∀ i < k, ∀ u : State, u.par = t.par → u.calMin = t.calMin → u.calMax = t.calMax →
        ∃ v, f i u = .ok v ∧ v.par = t.par ∧ v.calMin = t.calMin ∧ v.calMax = t.calMax)
      (he : ∀ u : State, u.par = t.par → u.calMin = t.calMin → u.calMax = t.calMax →
        f k u = .error (.degeneratePair k)) (n : Nat),
      forUpFault (k + 1 + n) f t = .error (.degeneratePair k) := by
    intro f t hf he n
    have pre : ∀ m ≤ k, ∃ v, forUpFault m f t = .ok v ∧ v.par = t.par ∧ v.calMin = t.calMin ∧
        v.calMax = t.calMax := by
      intro m
      induction m with
      | zero => exact fun _ => ⟨t, rfl, rfl, rfl, rfl⟩
      | succ m ih =>
        intro hm
        obtain ⟨v, e, a, b, c⟩ := ih (by omega)
        obtain ⟨w, ew, hw⟩ := hf m hm v a b c
        exact ⟨w, by rw [forUpFault, e]; exact ew, hw⟩
    induction n with
    | zero =>
      obtain ⟨v, e, a, b, c⟩ := pre k le_rfl
      rw [Nat.add_zero, forUpFault, e]; exact he v a b c
    | succ n ih => rw [← Nat.add_assoc, forUpFault, ih]
  obtain ⟨n, hn⟩ := Nat.exists_eq_add_of_le (Nat.succ_le_of_lt hk)
  have hclear : ∀ n, (forUp n (fun k t => State.setPot t k 0) s).par = s.par ∧
      (forUp n (fun k t => State.setPot t k 0) s).calMin = s.calMin ∧
      (forUp n (fun k t => State.setPot t k 0) s).calMax = s.calMax := fun n =>
    forUp_keeps (Q := fun t => t.par = s.par ∧ t.calMin = s.calMin ∧ t.calMax = s.calMax)
      (fun _ _ h => by simpa using h) n ⟨rfl, rfl, rfl⟩
  obtain ⟨c1, c2, c3⟩ := hclear s.par.P
  rw [potSample, hc, if_pos rfl, hn]
  refine key _ _ (fun i hi u a b c => ?_) (fun u a b c => ?_) n
  · have e : remap u.par.R (u.env.analogAnswer u.par.C 0) (u.minOf i) (u.maxOf i) =
        some (remapFormula u.par.R (u.env.analogAnswer u.par.C 0) (s.minOf i) (s.maxOf i)) := by
      rw [State.minOf, State.maxOf, b, c, potClear, c2, c3]; exact remap_eq (h1 i hi)
    refine ⟨(readAnalog (u.par.potPinAt i) u).2.setPot i
      (remapFormula u.par.R (u.env.analogAnswer u.par.C 0) (s.minOf i) (s.maxOf i)), ?_, ?_, ?_, ?_⟩
    · simp only [sampleChannelRemapped, readAnalog, e]
    all_goals simp [a, b, c]
  · have e : u.minOf k = u.maxOf k := by
      rw [State.minOf, State.maxOf, b, c, potClear, c2, c3]; exact h2
    simp only [sampleChannelRemapped, readAnalog, e, remap_degenerate]

end Sys2Proof.Machine
end

