-- ==== Sys2Proof/Laws/Step.lean ====
section
/-! SUPPORT. What one step can do, said once: the steps of an idle block and those of a block whose
CONFIGURE waits. -/

namespace Sys2Proof.Machine

variable {s t : State}

theorem fetch_idle (hw : s.par.Wf) (hp : s.phase = .idle) : fetch s = fetchIdle s := by
  rw [fetch, if_pos hw, hp]

theorem fetch_calibrating (hw : s.par.Wf) (hp : s.phase = .calibrating) :
    fetch s = fetchCalibrating s := by
  rw [fetch, if_pos hw, hp]

/-- A waiting block whose host neither resets it nor pauses makes one pass (R77, R145). -/
theorem step_wait (hw : s.par.Wf) (hp : s.phase = .calibrating) (hh : s.HostWaits) :
    step s = .next (calibrationStep s) := by
  rw [step, fetch_calibrating hw hp, fetchCalibrating]
  rw [State.HostWaits] at hh
  split at hh <;> simp_all

/-- A command that the reset input cuts completes as the cut of the whole command (R146). -/
theorem step_interrupted {w n : Nat} {rest : List HostEvent} (hw : s.par.Wf) (hp : s.phase = .idle)
    (hh : s.host = .interrupted w n :: rest)
    (h : exec (decodeWord s.par.C w) { s with host := rest } = .next t) :
    step s = .next (cutShort n { s with host := rest } t) := by
  simp only [step, fetch_idle hw hp, fetchIdle, hh, h, cutOutcome_next]

/-- Everything a step that answers a next state can have done. -/
theorem step_cases (h : step s = .next t) : s.par.Wf ∧
    ((s.phase = .idle ∧ s.host = [] ∧ t = s) ∨
     (∃ rest, s.phase = .idle ∧ s.host = .pause :: rest ∧ t = { s with host := rest }) ∨
     (∃ n rest, s.phase = .idle ∧ s.host = .reset n :: rest ∧ t = hostReset { s with host := rest }) ∨
     (∃ n rest, s.phase = .calibrating ∧ s.host = .reset n :: rest ∧
       t = cutShort n { s with host := rest } (calibrationStep { s with host := rest })) ∨
     (∃ w n rest u, s.phase = .idle ∧ s.host = .interrupted w n :: rest ∧
       exec (decodeWord s.par.C w) { s with host := rest } = .next u ∧
       t = cutShort n { s with host := rest } u) ∨
     (∃ w rest, s.phase = .idle ∧ s.host = .command w :: rest ∧
       exec (decodeWord s.par.C w) { s with host := rest } = .next t) ∨
     (s.phase = .calibrating ∧ s.HostWaits ∧ t = calibrationStep s) ∨
     (∃ rest, s.phase = .calibrating ∧ s.host = .pause :: rest ∧
       t = calibrationStep { s with host := rest })) := by
  by_cases hw : s.par.Wf
  · refine ⟨hw, ?_⟩
    have phases : s.phase = .idle ∨ s.phase = .calibrating := by cases s.phase <;> simp
    rcases phases with hp | hp
    · rw [step, fetch_idle hw hp] at h
      rcases hh : s.host with _ | ⟨w | ⟨w, n⟩ | n | _, rest⟩ <;> simp only [fetchIdle, hh] at h
      · cases h; exact .inl ⟨hp, rfl, rfl⟩
      · exact .inr (.inr (.inr (.inr (.inr (.inl ⟨w, rest, hp, rfl, h⟩)))))
      · cases he : exec (decodeWord s.par.C w) { s with host := rest } with
        | next u =>
          rw [he] at h; cases h
          exact .inr (.inr (.inr (.inr (.inl ⟨w, n, rest, u, hp, rfl, he, rfl⟩))))
        | fault e => rw [he] at h; cases h
        | refused e => rw [he] at h; cases h
      · cases h; exact .inr (.inr (.inl ⟨n, rest, hp, rfl, rfl⟩))
      · cases h; exact .inr (.inl ⟨rest, hp, rfl, rfl⟩)
    · rw [step, fetch_calibrating hw hp] at h
      rcases hh : s.host with _ | ⟨w | ⟨w, n⟩ | n | _, rest⟩ <;>
        simp only [fetchCalibrating, hh, cutOutcome_next] at h <;> cases h
      · exact .inr (.inr (.inr (.inr (.inr (.inr (.inl ⟨hp, by simp [State.HostWaits, hh], rfl⟩))))))
      · exact .inr (.inr (.inr (.inr (.inr (.inr (.inl ⟨hp, by simp [State.HostWaits, hh], rfl⟩))))))
      · exact .inr (.inr (.inr (.inr (.inr (.inr (.inl ⟨hp, by simp [State.HostWaits, hh], rfl⟩))))))
      · exact .inr (.inr (.inr (.inl ⟨n, rest, hp, rfl, rfl⟩)))
      · exact .inr (.inr (.inr (.inr (.inr (.inr (.inr ⟨rest, hp, rfl, rfl⟩))))))
  · rw [step, fetch, if_neg hw] at h
    cases h

end Sys2Proof.Machine
end

