-- ==== Sys2Proof/Tests/Slice0.lean ====
section
/-! SUPPORT. The modeller's own tests. Expected results come from spec/95_test_vectors.md (the id
stands in each docstring) or from the rule named; nothing here is a statement for the provers.
The last part gives, for each obligation with hypotheses, a state and operands that meet them. -/

namespace Sys2Proof.Tests

open Sys2Proof.Machine

/-! ### Small blocks and states -/

/-- Parameters with `C = 16`, `MAX_RAW = 1023`, pins numbered from 0. -/
def block (b p w v r : Nat) (pol : Polarity) (calEn : Bool) : Params where
  B := b
  P := p
  W := w
  pol := pol
  R := r
  V := v
  maxRaw := 1023
  C := 16
  calEn := calEn
  btnPin := List.range b
  potPin := List.range p

/-- The block of Program 1: three pull-up buttons. -/
def buttons : Params := block 3 0 16 2 4095 .pullup true

/-- One calibrated channel, the block of Program 4. -/
def pots : Params := block 0 1 16 2 4095 .pullup true

/-- Two calibrated channels (C-11 to C-14). -/
def twoPots : Params := block 0 2 16 2 4095 .pullup true

/-- Three buttons and one calibrated channel (F-8). -/
def both : Params := block 3 1 16 2 4095 .pullup true

/-- A configured state with the given banks and table. -/
def configured (p : Params) (words values mins maxs : List Nat) : State :=
  { State.resetWith p with
    btnWords := words, dataPots := values, calMin := mins, calMax := maxs, cfgDone := true }

/-- An unconfigured state with the given table. -/
def supplied (p : Params) (mins maxs : List Nat) : State :=
  { State.resetWith p with calMin := mins, calMax := maxs }

/-- The environment's next answers. -/
def answers (d : List Bool) (a : List Nat) (q : List Bool) : Env :=
  { Env.none with digital := d, analog := a, done := q }

/-- A CONFIGURE waiting with the given table and answers. -/
def waiting (p : Params) (mins maxs : List Nat) (e : Env) : State :=
  { supplied p mins maxs with phase := .calibrating, env := e }

/-- What a next state shows, if there is one. -/
def sees {α : Type} (f : State → α) (o : Host.Outcome State Fault Refusal) : Option α :=
  match o with
  | .next t => some (f t)
  | .fault _ => none
  | .refused _ => none

/-- Whether a step is refused for its parameters. -/
def refusesParameters (o : Host.Outcome State Fault Refusal) : Bool :=
  match o with
  | .next _ => false
  | .fault _ => false
  | .refused r => r == .malformedParameters

/-- The channel whose degenerate pair stopped a step. -/
def degenerateChannel (o : Host.Outcome State Fault Refusal) : Option Nat :=
  match o with
  | .next _ => none
  | .fault (.degeneratePair k) => some k
  | .refused _ => none

/-! ### WellFormed: each check refuses an ill-formed term (R6) -/

theorem test_wf_no_bank :
    ¬ (block 0 0 16 2 4095 .pullup true).SomeBank ∧
      refusesParameters (step (State.resetWith (block 0 0 16 2 4095 .pullup true))) = true := by decide

theorem test_wf_word_not_bytes :
    ¬ (block 3 0 12 2 4095 .pullup true).WholeBytes ∧ ¬ (block 3 0 0 2 4095 .pullup true).WholeBytes ∧
      refusesParameters (step (State.resetWith (block 3 0 12 2 4095 .pullup true))) = true := by decide

/-- `L = 4 + 2*126 = 256` is refused, `L = 4 + 2*125 = 254` is not. -/
theorem test_wf_length :
    ¬ (block 0 126 16 2 4095 .pullup true).LengthFits ∧ (block 0 125 16 2 4095 .pullup true).LengthFits ∧
      refusesParameters (step (State.resetWith (block 0 126 16 2 4095 .pullup true))) = true := by decide

theorem test_wf_resolution :
    ¬ (block 0 1 16 1 256 .pullup true).ResolutionFits ∧ (block 0 1 16 1 255 .pullup true).ResolutionFits ∧
      ¬ (block 0 1 16 1 0 .pullup true).ResolutionFits ∧
      refusesParameters (step (State.resetWith (block 0 1 16 1 256 .pullup true))) = true := by decide

theorem test_wf_native_range :
    ¬ { pots with maxRaw := 0 }.NativeRangeFits ∧ ¬ { pots with maxRaw := 65536 }.NativeRangeFits ∧
      { pots with maxRaw := 65535 }.NativeRangeFits ∧
      refusesParameters (step (State.resetWith { pots with maxRaw := 65536 })) = true := by decide

/-- Without calibration a raw sample of up to 1023 does not fit one byte; with it, it may. -/
theorem test_wf_raw :
    ¬ (block 0 1 16 1 255 .pullup false).RawFits ∧ (block 0 1 16 1 255 .pullup true).RawFits ∧
      refusesParameters (step (State.resetWith (block 0 1 16 1 255 .pullup false))) = true := by decide

theorem test_wf_pins :
    ¬ { buttons with btnPin := [4, 5] }.PinTables ∧ ¬ { buttons with potPin := [4] }.PinTables ∧
      refusesParameters (step (State.resetWith { buttons with btnPin := [4, 5] })) = true := by decide

theorem test_wf_instr : ¬ (Instr.wrcal 0#9 65536).Wf 16 ∧ (Instr.wrcal 0#9 65535).Wf 16 := by decide

/-! ### Decode: words written out from R45 and R47, `C = 16` -/

theorem test_decode_nop :
    decodeTableWord 28 0b0000000000000000_000000000_000 = some .nop ∧
      decodeTableWord 28 0b1111111111111111_111111111_000 = some .nop := by decide

theorem test_decode_configure :
    decodeTableWord 28 0b0000000000000000_000000000_001 = some .configure ∧
      decodeTableWord 28 0b1010101010101010_010101010_001 = some .configure := by decide

theorem test_decode_sample :
    decodeTableWord 28 0b0000000000000000_000000000_010 = some .sample ∧
      decodeTableWord 28 0b0000000000000001_000000001_010 = some .sample := by decide

theorem test_decode_emit :
    decodeTableWord 28 0b0000000000000000_000000000_011 = some .emit ∧
      decodeTableWord 28 0b1000000000000000_100000000_011 = some .emit := by decide

theorem test_decode_rdword :
    decodeTableWord 28 0b0000000000000000_000000101_100 = some (.rdword 5#9) ∧
      decodeTableWord 28 0b1111111111111111_111111111_100 = some (.rdword 511#9) := by decide

theorem test_decode_rdpot :
    decodeTableWord 28 0b0000000000000000_100000000_101 = some (.rdpot 256#9) := by decide

theorem test_decode_rdcal :
    decodeTableWord 28 0b0000000000000000_000000011_110 = some (.rdcal 3#9) := by decide

/-- The second word is `WRCAL 1, 1100` of Program 2. -/
theorem test_decode_wrcal :
    decodeTableWord 28 0b1000000000000001_000000010_111 = some (.wrcal 2#9 32769) ∧
      decodeTableWord 28 0x044C00F = some (.wrcal 1#9 1100) := by decide

/-- The encoder's words are those of the programs of spec/95_test_vectors.md section 3. -/
theorem test_encode :
    encode .configure = 0x0000001 ∧ encode .sample = 0x0000002 ∧ encode .emit = 0x0000003 ∧
      encode (.rdcal 3#9) = 0x000001E ∧ encode (.wrcal 0#9 100) = 0x0064007 := by decide

/-- `WRPAIR 0, 100, 1100` is steps 1 and 2 of Program 2; `CYCLE` is its steps 9 and 10. -/
theorem test_abbreviations :
    (wrpair 0 100 1100).map encode = [0x0064007, 0x044C00F] ∧ cycle.map encode = [2, 3] := by decide

/-! ### Operations -/

/-- B-1 to B-4. -/
theorem test_active :
    active .pullup false = true ∧ active .pullup true = false ∧
      active .pulldown false = false ∧ active .pulldown true = true := by decide

/-- P-1 to P-11, `R = 4095`, pair (100, 1100). -/
theorem test_remap_ordinary :
    [100, 1100, 600, 700, 101, 1099, 1101, 1200, 65535, 99, 0].map (fun x => remap 4095 x 100 1100) =
      [some 0, some 4095, some 2047, some 2457, some 4, some 4090, some 4095, some 4095, some 4095,
        some 0, some 0] := by decide

/-- P-12 to P-18, pair (0, 1023); P-19 to P-22, pair (300, 0); P-23; P-24. -/
theorem test_remap_corners :
    [0, 1, 511, 512, 1022, 1023, 1024].map (fun x => remap 4095 x 0 1023) =
        [some 0, some 4, some 2045, some 2049, some 4090, some 4095, some 4095] ∧
      [0, 150, 300, 301].map (fun x => remap 4095 x 300 0) = [some 4095, some 2047, some 0, some 0] ∧
      remap 4095 512 65535 0 = some 4063 ∧ remap 4095 475 50 900 = some 2047 ∧
      remap 4095 5 7 7 = none := by decide

/-- `R = 255`, pair (10, 20), raw 8 to 22. -/
theorem test_remap_byte :
    (List.range 15).map (fun i => remap 255 (8 + i) 10 20) =
      [0, 0, 0, 25, 51, 76, 102, 127, 153, 178, 204, 229, 255, 255, 255].map some := by decide

/-- C-2, C-4, C-6, C-7, C-8, C-10: the pair before the correction. -/
theorem test_calibration_pairs :
    pairAfter (65535, 0) (fun i => [500].getD i 0) 1 = (500, 0) ∧
      pairAfter (65535, 0) (fun i => [500, 500].getD i 0) 2 = (500, 500) ∧
      pairAfter (65535, 0) (fun i => [500, 400, 300].getD i 0) 3 = (300, 0) ∧
      pairAfter (65535, 0) (fun i => [900, 100, 500].getD i 0) 3 = (100, 500) ∧
      pairAfter (65535, 0) (fun i => [512, 100, 900, 50].getD i 0) 4 = (50, 900) ∧
      pairAfter (65535, 0) (fun i => [1023, 0].getD i 0) 2 = (0, 0) := by decide

/-- F-10, F-13, F-14, F-15 in the closed form the statements use. -/
theorem test_frames :
    frameBytes (block 3 2 16 2 4095 .pullup true) [6] [1023, 4095] =
        [0x0A, 0x40, 0x06, 0x00, 0xFF, 0x03, 0xFF, 0x0F, 0x9F, 0xFD] ∧
      frameBytes (block 9 0 8 2 4095 .pullup true) [0x81, 0x01] [] =
        [0x06, 0x40, 0x81, 0x01, 0x37, 0xFF] ∧
      frameBytes (block 33 0 32 2 4095 .pullup true) [0x80000000, 1] [] =
        [0x0C, 0x40, 0x00, 0x00, 0x00, 0x80, 0x01, 0x00, 0x00, 0x00, 0x32, 0xFF] ∧
      frameBytes (block 0 1 16 1 255 .pullup true) [] [127] = [0x05, 0x40, 0x7F, 0x3B, 0xFF] := by decide

/-! ### One step of each command -/

/-- S-1. -/
theorem test_nop :
    sees (fun t => (t.btnWords, t.cfgDone, t.record)) (exec .nop (configured both [5] [9] [1] [2])) =
      some ([5], true, []) := by decide

/-- S-4: three pins pulled up, `cfg_done`, no diagnostic. -/
theorem test_configure_buttons :
    sees (fun t => (t.record, t.cfgDone, t.phase)) (exec .configure (State.resetWith buttons)) =
      some ([.configurePin 0 .inputPullup, .configurePin 1 .inputPullup, .configurePin 2 .inputPullup],
        true, .idle) := by decide

/-- C-13: the degenerate pair of channel 0 corrected and reported, the inverted pair kept. -/
theorem test_configure_supplied :
    sees (fun t => (t.calMin, t.calMax, t.record.drop 2, t.cfgDone))
        (exec .configure (supplied twoPots [7, 5] [7, 3])) =
      some ([0, 5], [1023, 3], [.diagEmit ⟨.degenerate, 0, 0, 0⟩], true) := by decide

/-- C-14: nothing supplied, so the prompt and the wait (R75, R76, R77). -/
theorem test_configure_waits :
    sees (fun t => (t.calMin, t.calMax, t.record.drop 1, t.cfgDone, t.phase))
        (exec .configure (State.resetWith pots)) =
      some ([65535], [0], [.diagEmit ⟨.prompt, 0, 0, 0⟩], false, .calibrating) := by decide

/-- The second sweep of the two-channel example of section 2.2, then (C-3) the end of a wait. -/
theorem test_wait_sweeps :
    sees (fun t => (t.calMin, t.calMax, t.phase))
        (step (waiting twoPots [512, 300] [0, 0] (answers [] [100, 300] [false]))) =
      some ([100, 300], [0, 300], .calibrating) := by decide

/-- C-3: the pair (0, 0) is corrected and reported, then the table is reported. -/
theorem test_wait_ends :
    sees (fun t => (t.calMin, t.calMax, t.record, t.cfgDone, t.phase))
        (step (waiting pots [0] [0] (answers [] [] [true]))) =
      some ([0], [1023], [.diagInAvail true, .diagEmit ⟨.degenerate, 0, 0, 0⟩,
        .diagEmit ⟨.cal, 0, 0, 1023⟩], true, .idle) := by decide

/-- Program 3, step 3. -/
theorem test_sample_both_banks :
    sees (fun t => (t.btnWords, t.dataPots))
        (exec .sample { configured Params.reference [7, 7] [7, 7] [50, 0] [900, 1023] with
          env := answers ([true] ++ List.replicate 14 false ++ [true, true]) [475, 512] [] }) =
      some ([0x8001, 0x0001], [2047, 2049]) := by decide

/-- S-2, and the fault R82 (iv) asks for. -/
theorem test_sample_gate_and_fault :
    sees (fun t => (t.btnWords, t.dataPots, t.record)) (exec .sample (State.resetWith both)) =
        some ([0], [0], []) ∧
      degenerateChannel (exec .sample { configured twoPots [] [0, 0] [1, 4] [2, 4] with
        env := answers [] [1, 1] [] }) = some 1 := by decide

/-- F-8: the frame, and both banks drained. -/
theorem test_emit_frame :
    sees (fun t => (t.record, t.btnWords, t.dataPots))
        (exec .emit (configured both [5] [2457] [100] [1100])) =
      some ([0x08#8, 0x40#8, 0x05#8, 0x00#8, 0x99#8, 0x09#8, 0x10#8, 0xFF#8].map .sinkWrite, [0], [0]) := by
  decide

/-- S-3 (F-9): an EMIT straight after reset. -/
theorem test_emit_after_reset :
    sees (fun t => t.record) (exec .emit (State.resetWith both)) =
      some ([0x08#8, 0x40#8, 0x00#8, 0x00#8, 0x00#8, 0x00#8, 0xB7#8, 0xFF#8].map .sinkWrite) := by decide

/-- RDWORD on the state of B-8: indexes 0, 1, 2 and 511. -/
theorem test_rdword :
    [0#9, 1#9, 2#9, 511#9].map (fun j => sees (fun t => t.rspData)
        (exec (.rdword j) (configured (block 17 0 16 2 4095 .pullup true) [0x8001, 1] [] [] []))) =
      [some 0x8001, some 1, some 0, some 0] := by decide

/-- RDPOT in and out of range (section 2.3). -/
theorem test_rdpot :
    [0#9, 1#9].map (fun k => sees (fun t => t.rspData)
        (exec (.rdpot k) (configured pots [] [2457] [100] [1100]))) = [some 2457, some 0] := by decide

/-- RDCAL of Program 3, step 2, and out of range. -/
theorem test_rdcal :
    [0#9, 1#9, 2#9, 3#9, 4#9].map (fun e => sees (fun t => t.rspData)
        (exec (.rdcal e) (configured Params.reference [0, 0] [0, 0] [50, 0] [900, 1023]))) =
      [some 50, some 900, some 0, some 1023, some 0] := by decide

/-- Program 2, steps 1, 2: the entry map. -/
theorem test_wrcal_writes :
    sees (fun t => (t.calMin, t.calMax)) (exec (.wrcal 0#9 100) (supplied pots [7] [8])) =
        some ([100], [8]) ∧
      sees (fun t => (t.calMin, t.calMax)) (exec (.wrcal 1#9 1100) (supplied pots [7] [8])) =
        some ([7], [1100]) := by decide

/-- Out of range, and Program 2, step 7: locked after CONFIGURE. -/
theorem test_wrcal_ignored :
    sees (fun t => (t.calMin, t.calMax)) (exec (.wrcal 2#9 9) (supplied pots [7] [8])) =
        some ([7], [8]) ∧
      sees (fun t => (t.calMin, t.calMax)) (exec (.wrcal 0#9 5) (configured pots [] [0] [7] [8])) =
        some ([7], [8]) := by decide

/-- The placed word is the first command after reset. -/
theorem test_fetch :
    sees (fun t => (t.calMin, t.host)) (step (State.reset.withFetchWord 28 0x0064007)) =
      some ([100, 0], []) := by decide

/-- The reset input ends a calibration wait (R141). -/
theorem test_reset_input :
    sees (fun t => (t.calMin, t.cfgDone, t.phase, t.record))
        (step { waiting pots [5] [9] (answers [] [] [true]) with host := [.reset 0] }) =
      some ([0], false, .idle, []) := by decide

/-- A reset after three bytes of F-8: the sink has `08 40 05`, the registers are reset (R146). -/
theorem test_cut_emit :
    sees (fun t => (t.record, t.btnWords, t.calMax, t.cfgDone))
        (step { configured both [5] [2457] [100] [1100] with host := [.interrupted 3 3] }) =
      some ([0x08#8, 0x40#8, 0x05#8].map .sinkWrite, [0], [0], false) := by decide

/-- A reset inside a sweep, after the poll and the first of two reads (R77, R146): one of the two
listed samples is left. -/
theorem test_cut_sweep :
    sees (fun t => (t.record, t.env.analog, t.env.polls, t.calMin, t.phase))
        (step { waiting twoPots [512, 300] [0, 0] (answers [] [100, 300] [false]) with
          host := [.reset 2] }) =
      some ([.diagInAvail false, .readAnalog 0 100], [300], 1, [0, 0], .idle) := by decide

/-! ### Witnesses: states and operands that meet the hypotheses of each obligation -/

/-- A configured two-bank block: Program 3 after its CONFIGURE and SAMPLE. -/
def running : State := configured Params.reference [0x8001, 1] [2047, 2049] [50, 0] [900, 1023]

/-- A waiting block whose done signal arrives at the third poll. -/
def calibrating : State :=
  waiting twoPots [65535, 65535] [0, 0] (answers [] [100, 300, 900, 300] [false, false, true])

theorem running_inv : running.Inv := by decide
theorem calibrating_inv : calibrating.Inv := by decide

theorem witness_EveryCodeDecodes : 0 < 2 ^ 16 ∧ 65535 < 2 ^ 16 ∧ 1 < 2 ^ 1 := by decide

theorem witness_DecodeInvertsEncode :
    Instr.nop.Wf 1 ∧ Instr.configure.Wf 16 ∧ Instr.sample.Wf 16 ∧ Instr.emit.Wf 16 ∧
      (Instr.rdword 511#9).Wf 16 ∧ (Instr.rdpot 0#9).Wf 16 ∧ (Instr.rdcal 511#9).Wf 16 ∧
      (Instr.wrcal 511#9 65535).Wf 16 ∧ (Instr.wrcal 0#9 0).Wf 1 := by decide

theorem witness_StepRunsTheDecodedCommand :
    State.reset.par.Wf ∧ State.reset.phase = .idle ∧
      { State.reset with host := [.command 0x0000002, .pause] }.host = .command 0x0000002 :: [.pause] := by
  decide

theorem witness_StepRunsThePlacedCommand : State.reset.par.Wf ∧ calibrating.par.Wf := by decide

theorem witness_IdleBlockChangesNothing :
    running.par.Wf ∧ running.phase = .idle ∧ running.host = [] ∧
      { running with host := [.pause, .reset 0] }.host = .pause :: [.reset 0] := by decide

/-- One set for each item of R6, at the boundary where the item has one. -/
theorem witness_BrokenParametersAreRefused :
    (block 0 0 16 2 4095 .pullup true).B + (block 0 0 16 2 4095 .pullup true).P = 0 ∧
      { pots with W := 20 }.W % 8 ≠ 0 ∧ { pots with W := 0 }.W < 8 ∧
      255 < 4 + ((block 0 126 16 2 4095 .pullup true).B + 16 - 1) / 16 * (16 / 8) +
        (block 0 126 16 2 4095 .pullup true).P * (block 0 126 16 2 4095 .pullup true).V ∧
      { pots with R := 0 }.R = 0 ∧ 2 ^ (8 * pots.V) - 1 < { pots with R := 65536 }.R ∧
      { pots with maxRaw := 0 }.maxRaw = 0 ∧ 2 ^ pots.C - 1 < { pots with maxRaw := 65536 }.maxRaw ∧
      ((block 0 1 16 1 255 .pullup false).calEn = false ∧ 0 < (block 0 1 16 1 255 .pullup false).P ∧
        2 ^ (8 * 1) - 1 < (block 0 1 16 1 255 .pullup false).maxRaw) ∧
      { buttons with btnPin := [4, 5] }.btnPin.length ≠ buttons.B ∧
      { pots with potPin := [] }.potPin.length ≠ pots.P := by decide

/-- Of the three obligations about every step: a legal state and its next state. -/
theorem witness_steps : running.Inv ∧ (∃ t, step running = .next t) ∧
    calibrating.Inv ∧ (∃ t, step calibrating = .next t) ∧
    State.reset.Inv ∧ ∃ t, step (State.reset.withFetchWord 28 0x0000001) = .next t :=
  ⟨by decide, ⟨_, rfl⟩, by decide, ⟨_, rfl⟩, by decide, ⟨_, rfl⟩⟩

theorem witness_ResetValues :
    1 < Params.reference.nw ∧ 1 < Params.reference.P ∧ Params.reference.calEn = true := by decide

/-- An idle block, whatever the count, and a waiting one with the count 0. -/
theorem witness_ResetInputResetsTheRegisters :
    (running.par.Wf ∧ (running.phase = .idle ∨ 7 = 0) ∧
      { running with host := [.reset 7] }.host = .reset 7 :: []) ∧
      calibrating.par.Wf ∧ (calibrating.phase = .idle ∨ 0 = 0) ∧
      { calibrating with host := [.reset 0, .pause] }.host = .reset 0 :: [.pause] :=
  ⟨⟨by decide, by decide, rfl⟩, by decide, by decide, rfl⟩

theorem witness_ResetIsLegal : Params.reference.Wf ∧ buttons.Wf ∧ pots.Wf ∧
    (block 0 1 16 1 255 .pullup true).Wf :=
  ⟨by decide, by decide, by decide, by decide⟩

/-- Each clause: a command that is none of the writers it names. -/
theorem witness_RegistersHaveTheirWriters :
    (∃ t, exec (.rdword 0#9) running = .next t) ∧ (∃ t, exec .emit running = .next t) ∧
      (∃ t, exec (.wrcal 0#9 5) (supplied pots [7] [8]) = .next t) ∧
      (∃ t, exec .configure running = .next t) ∧ running.cfgDone = true :=
  ⟨⟨_, rfl⟩, ⟨_, rfl⟩, ⟨_, rfl⟩, ⟨_, rfl⟩, rfl⟩

theorem witness_TransactionsHaveTheirMakers :
    (∃ t, exec .emit running = .next t) ∧ ∃ t, exec .configure (State.resetWith buttons) = .next t :=
  ⟨⟨_, rfl⟩, ⟨_, rfl⟩⟩

theorem witness_TableIsHeldForLife :
    running.Inv ∧ running.cfgDone = true ∧ (∀ n rest, running.host ≠ .reset n :: rest) ∧
      (∀ w n rest, running.host ≠ .interrupted w n :: rest) ∧ ∃ t, step running = .next t :=
  ⟨by decide, rfl, by simp [running, configured, State.resetWith],
    by simp [running, configured, State.resetWith], ⟨_, rfl⟩⟩

/-- Commands of each kind that completes, and a waiting CONFIGURE that finds the done signal. -/
theorem witness_UnspecifiedResponseIsFree :
    (returnsValue .emit = false ∧ ∃ t, exec .emit running = .next t) ∧
      (returnsValue .configure = false ∧
        ∃ t, exec .configure running = .next t ∧ t.phase = .idle) ∧
      (returnsValue .sample = false ∧ ∃ t, exec .sample (State.resetWith both) = .next t) ∧
      (returnsValue (.wrcal 0#9 5) = false ∧ ∃ t, exec (.wrcal 0#9 5) running = .next t) ∧
      (waiting pots [0] [0] (answers [] [] [true])).env.doneAnswer 0 = true :=
  ⟨⟨rfl, _, rfl⟩, ⟨rfl, _, rfl, rfl⟩, ⟨rfl, _, rfl⟩, ⟨rfl, _, rfl⟩, rfl⟩

/-- The last word, whose unused bits begin at bit 1, and an index out of range. -/
theorem witness_RdwordReturnsTheWord :
    running.Inv ∧ running.par.B ≤ (1#9).toNat * running.par.W + 1 ∧
      running.par.B ≤ (2#9).toNat * running.par.W + 0 :=
  ⟨by decide, by decide, by decide⟩

/-- A cut before the first transaction and after the last, on a command that makes 12. -/
theorem witness_ResetCutsACommand :
    { running with host := [.interrupted 3 0] }.Inv ∧ running.phase = .idle ∧
      { running with host := [.interrupted 3 12, .pause] }.host = .interrupted 3 12 :: [.pause] ∧
      decodeWord running.par.C 3 = .emit :=
  ⟨by decide, rfl, rfl, by decide⟩

/-- A cut inside the first sweep, and one inside the last pass. -/
theorem witness_ResetCutsAPass :
    { calibrating with host := [.reset 2] }.Inv ∧ calibrating.phase = .calibrating ∧
      { calibrating with host := [.reset 2] }.host = .reset 2 :: [] ∧
      (waiting pots [0] [0] (answers [] [] [true])).Inv ∧
      (waiting pots [0] [0] (answers [] [] [true])).phase = .calibrating :=
  ⟨by decide, rfl, rfl, by decide, rfl⟩

/-- Each branch: both kinds of entry at the ends of the range, `e = 2P`, no table, locked. -/
theorem witness_WrcalWritesTheEntry :
    0 < 2 ^ twoPots.C ∧ 65535 < 2 ^ twoPots.C ∧ (State.resetWith twoPots).cfgDone = false ∧
      twoPots.calEn = true ∧ (0#9).toNat % 2 = 0 ∧ (3#9).toNat < 2 * twoPots.P ∧ (3#9).toNat % 2 ≠ 0 ∧
      ¬ (4#9).toNat < 2 * twoPots.P ∧ (block 0 1 16 2 4095 .pullup false).calEn = false ∧
      running.cfgDone = true := by decide

/-- `f = e` and `f ≠ e`, the last entry and the first one out of range. -/
theorem witness_WrittenEntryReadsBack :
    (State.resetWith twoPots).Inv ∧ (State.resetWith twoPots).cfgDone = false ∧ twoPots.calEn = true ∧
      (3#9).toNat < 2 * twoPots.P ∧ 65535 < 2 ^ twoPots.C ∧ (4#9 : Idx) ≠ 3#9 := by decide

theorem witness_accessors :
    (1#9).toNat < running.par.nw ∧ ¬ (2#9).toNat < running.par.nw ∧ (1#9).toNat < running.par.P ∧
      ¬ (2#9).toNat < running.par.P ∧ (3#9).toNat < 2 * running.par.P ∧
      ¬ (4#9).toNat < 2 * running.par.P := by decide

theorem witness_SampleBeforeConfigureDoesNothing : (State.resetWith both).cfgDone = false := by decide

theorem witness_SampleRebuildsBothBanks : running.Inv ∧ running.cfgDone = true := by decide

theorem witness_PackingLaw : running.Inv ∧ running.cfgDone = true ∧ 1 < running.par.nw ∧
    16 < running.par.B := by decide

theorem witness_SampleForgetsTheOldBanks :
    running.Inv ∧ running.cfgDone = true ∧ [0, 65535].length = running.btnWords.length ∧
      [4095, 0].length = running.dataPots.length := by decide

theorem witness_DegeneratePairFaults :
    let s := configured twoPots [] [0, 0] [1, 4] [2, 4]
    s.cfgDone = true ∧ s.par.calEn = true ∧ 1 < s.par.P ∧ (∀ i < 1, s.minOf i ≠ s.maxOf i) ∧
      s.minOf 1 = s.maxOf 1 := by decide

/-- Both orders of the pair. -/
theorem witness_RemapIsMonotonic :
    (100 ≠ 1100 ∧ 600 ≤ 700 ∧ 100 < 1100) ∧ (300 ≠ 0 ∧ 0 ≤ 150 ∧ 0 < 300) := by decide

/-- Each clause at the boundary of its range: `raw = mn`, `raw = mx`, `mx + 1`, `mn - 1`, `mn = mx`. -/
theorem witness_RemapSaturates :
    (100 < 1100 ∧ 100 ≤ 100 ∧ 100 ≤ 1100) ∧ (100 < 1100 ∧ 100 ≤ 1100 ∧ 1100 ≤ 1100) ∧
      (100 < 1100 ∧ 1100 < 1101) ∧ (100 < 1100 ∧ 99 < 100) ∧ 7 = 7 := by decide

theorem witness_EmitSendsOneFrameAndDrains : running.Inv ∧ (State.resetWith pots).Inv :=
  ⟨by decide, by decide⟩

/-- Also of `EveryFrameVerifies` and `ButtonBitInTheFrame`: an offset of each kind, the last button. -/
theorem witness_FrameByteMap :
    running.Inv ∧ 1 < running.par.nw ∧ 1 < running.par.wb ∧ 1 < running.par.P ∧ 1 < running.par.V ∧
      16 < running.par.B :=
  ⟨by decide, by decide, by decide, by decide, by decide, by decide⟩

/-- The two bounds of R104 are met: `L = 255` with every payload byte `0xFF`, and `L = 5`, value 0. -/
theorem witness_ChecksumNeverWraps :
    (configured (block 0 251 8 1 255 .pullup true) [] (List.replicate 251 255)
        (List.replicate 251 0) (List.replicate 251 9)).Inv ∧
      receivedChecksum (frameBytes (block 0 251 8 1 255 .pullup true) [] (List.replicate 251 255)) =
        1211 ∧
      (State.resetWith (block 0 1 16 1 255 .pullup true)).Inv ∧
      receivedChecksum (frameBytes (block 0 1 16 1 255 .pullup true) [] [0]) = 65466 :=
  ⟨by decide +kernel, by decide +kernel, by decide, by decide⟩

/-- The first and the last offset R105 covers, on F-8. -/
theorem witness_OneChangedByteIsDetected :
    (configured both [5] [2457] [100] [1100]).Inv ∧ 1 ≤ 1 ∧ 1 ≤ 5 ∧ 5 ≤ both.frameLen - 3 ∧
      (frameBytes both [5] [2457])[1]? ≠ some 0x41#8 ∧
      (frameBytes both [5] [2457])[5]? ≠ some 0x0A#8 :=
  ⟨by decide, by decide, by decide, by decide, by decide, by decide⟩

theorem witness_FieldReassembles : 2457 < 2 ^ (8 * 2) ∧ 65535 < 2 ^ (8 * 2) ∧ 0 < 2 ^ (8 * 0) := by decide

theorem witness_SecondEmitSendsZeros : running.Inv ∧ pots.Wf := ⟨by decide, by decide⟩

theorem witness_ConfigureCorrectsAGivenTable :
    let s := supplied twoPots [7, 5] [7, 3]
    s.Inv ∧ s.phase = .idle ∧ s.par.calEn = true ∧
      ∃ k < s.par.P, s.minOf k ≠ 0 ∨ s.maxOf k ≠ 0 := by decide

/-- A block without channels, and one without calibration. -/
theorem witness_ConfigureWithoutATableSetsPins :
    ((State.resetWith buttons).Inv ∧ (State.resetWith buttons).phase = .idle ∧ buttons.P = 0) ∧
      (State.resetWith (block 2 1 16 2 4095 .pulldown false)).Inv ∧
      (State.resetWith (block 2 1 16 2 4095 .pulldown false)).phase = .idle ∧
      (block 2 1 16 2 4095 .pulldown false).calEn = false :=
  ⟨⟨by decide, rfl, rfl⟩, by decide, rfl, rfl⟩

theorem witness_ConfigureBeginsAutocalibration :
    let s := State.resetWith twoPots
    s.Inv ∧ s.phase = .idle ∧ s.par.calEn = true ∧ 0 < s.par.P ∧
      ∀ k < s.par.P, s.minOf k = 0 ∧ s.maxOf k = 0 := by decide

theorem witness_WaitingStepSweepsOnce :
    calibrating.Inv ∧ calibrating.phase = .calibrating ∧ calibrating.HostWaits ∧
      calibrating.env.doneAnswer 0 = false ∧
      { calibrating with host := [.command 3] }.HostWaits :=
  ⟨by decide, rfl, trivial, rfl, trivial⟩

/-- Two sweeps, and none. -/
theorem witness_AutocalibrationRun :
    (calibrating.Inv ∧ calibrating.phase = .calibrating ∧ calibrating.HostWaits ∧
      (∀ i < 2, calibrating.env.doneAnswer i = false) ∧ calibrating.env.doneAnswer 2 = true) ∧
      (waiting pots [65535] [0] (answers [] [] [true])).Inv ∧
      (waiting pots [65535] [0] (answers [] [] [true])).phase = .calibrating ∧
      (waiting pots [65535] [0] (answers [] [] [true])).HostWaits ∧
      (waiting pots [65535] [0] (answers [] [] [true])).env.doneAnswer 0 = true :=
  ⟨⟨by decide, rfl, trivial, by decide, rfl⟩, by decide, rfl, trivial, rfl⟩

theorem witness_CalibrationWaitsWithoutTimeout :
    calibrating.Inv ∧ calibrating.phase = .calibrating ∧ calibrating.HostWaits ∧
      ∀ i < 2, calibrating.env.doneAnswer i = false :=
  ⟨by decide, rfl, trivial, by decide⟩

theorem witness_RepeatedConfigureOnlySetsPins :
    (running.Inv ∧ running.cfgDone = true) ∧
      (configured buttons [5] [] [] []).Inv ∧ (configured buttons [5] [] [] []).cfgDone = true :=
  ⟨⟨by decide, rfl⟩, by decide, rfl⟩

theorem witness_TransactionCounts :
    (running.Inv ∧ running.cfgDone = true) ∧ (State.resetWith both).Inv ∧ calibrating.Inv ∧
      calibrating.phase = .calibrating ∧ calibrating.HostWaits ∧
      (∀ i < 2, calibrating.env.doneAnswer i = false) ∧ calibrating.env.doneAnswer 2 = true :=
  ⟨⟨by decide, rfl⟩, by decide, by decide, rfl, trivial, by decide, rfl⟩

end Sys2Proof.Tests
end

section
/-! PROOFS. The parameters (R4): no operation of the machine writes them, so no step does. One
lemma per operation, in the order of the model's files. -/

namespace Sys2Proof.Machine

variable {s t : State}

/-! ### Loops -/

/-- A loop keeps the parameters when every pass does. -/
theorem forUp_par {f : Nat → State → State} (hf : ∀ k u, (f k u).par = u.par) (n : Nat) (s : State) :
    (forUp n f s).par = s.par :=
  forUp_keeps (Q := fun u => u.par = s.par) (fun k u hu => (hf k u).trans hu) n rfl

/-- A loop that does not stop keeps the parameters when every completed pass does. -/
theorem forUpFault_par {f : Nat → State → Except Fault State}
    (hf : ∀ k u v, f k u = .ok v → v.par = u.par) {n : Nat} (h : forUpFault n f s = .ok t) :
    t.par = s.par := by
  induction n generalizing t with
  | zero => cases h; rfl
  | succ n ih =>
    rw [forUpFault] at h
    cases hn : forUpFault n f s with
    | ok u => rw [hn] at h; exact (hf n u t h).trans (ih hn)
    | error e => rw [hn] at h; cases h

/-! ### Operands and the button unit -/

@[simp] theorem writeCalOperand_par (e : Idx) (v : Nat) (s : State) :
    (s.writeCalOperand e v).par = s.par := by
  rw [writeCalOperand_eq]
  split_ifs <;> rfl

@[simp] theorem btnConfigure_par (s : State) : (btnConfigure s).par = s.par := by
  rw [btnConfigure_eq]

@[simp] theorem btnClear_par (s : State) : (btnClear s).par = s.par :=
  forUp_par (fun j u => setWord_par u j 0) _ s

@[simp] theorem sampleButton_par (i : Nat) (s : State) : (sampleButton i s).par = s.par := by
  unfold sampleButton
  dsimp only
  split_ifs <;> rfl

@[simp] theorem btnSample_par (s : State) : (btnSample s).par = s.par := by
  rw [btnSample, forUp_par sampleButton_par, btnClear_par]

/-! ### The frame encoder -/

@[simp] theorem drainWordByte_par (j : Nat) (s : State) : (drainWordByte j s).par = s.par := rfl

@[simp] theorem drainPotByte_par (k : Nat) (s : State) : (drainPotByte k s).par = s.par := rfl

@[simp] theorem drainWord_par (j : Nat) (s : State) : (drainWord j s).par = s.par :=
  forUp_par (fun _ => drainWordByte_par j) _ s

@[simp] theorem drainPot_par (k : Nat) (s : State) : (drainPot k s).par = s.par :=
  forUp_par (fun _ => drainPotByte_par k) _ s

@[simp] theorem putHeader_par (s : State) : (putHeader s).par = s.par := by
  rw [putHeader, put_par, put_par]

@[simp] theorem putTrailer_par (s : State) : (putTrailer s).par = s.par := rfl

@[simp] theorem encodeFrame_par (s : State) : (encodeFrame s).par = s.par := by
  rw [encodeFrame, releaseCsum_par, putTrailer_par, forUp_par drainPot_par, forUp_par drainWord_par,
    putHeader_par]

/-! ### The potentiometer unit -/

@[simp] theorem potPins_par (s : State) : (potPins s).par = s.par := by
  rw [potPins_eq]

@[simp] theorem autocalInitChannel_par (k : Nat) (s : State) :
    (autocalInitChannel k s).par = s.par := rfl

@[simp] theorem autocalInit_par (s : State) : (autocalInit s).par = s.par :=
  forUp_par autocalInitChannel_par _ s

@[simp] theorem calUpdate_par (k x : Nat) (s : State) : (calUpdate k x s).par = s.par := by
  unfold calUpdate
  split_ifs <;> rfl

@[simp] theorem sweepChannel_par (k : Nat) (s : State) : (sweepChannel k s).par = s.par :=
  (calUpdate_par k _ _).trans (readAnalog_par s _)

@[simp] theorem sweep_par (s : State) : (sweep s).par = s.par :=
  forUp_par sweepChannel_par _ s

@[simp] theorem calCorrectChannel_par (k : Nat) (s : State) : (calCorrectChannel k s).par = s.par := by
  unfold calCorrectChannel
  split_ifs <;> rfl

@[simp] theorem calCorrect_par (s : State) : (calCorrect s).par = s.par :=
  forUp_par calCorrectChannel_par _ s

@[simp] theorem autocalReport_par (s : State) : (autocalReport s).par = s.par := by
  rw [autocalReport_eq]

@[simp] theorem potClear_par (s : State) : (potClear s).par = s.par :=
  forUp_par (fun k u => setPot_par u k 0) _ s

theorem sampleChannelRemapped_par {k : Nat} (h : sampleChannelRemapped k s = .ok t) :
    t.par = s.par := by
  unfold sampleChannelRemapped at h
  dsimp only at h
  split at h <;> cases h
  rfl

theorem sampleChannelRaw_par {k : Nat} (h : sampleChannelRaw k s = .ok t) : t.par = s.par := by
  cases h
  rfl

theorem potSample_par (h : potSample s = .ok t) : t.par = s.par := by
  unfold potSample at h
  rw [← potClear_par s]
  split_ifs at h
  · exact forUpFault_par (fun _ _ _ => sampleChannelRemapped_par) h
  · exact forUpFault_par (fun _ _ _ => sampleChannelRaw_par) h

/-! ### The Sampler, the commands and the step -/

@[simp] theorem finishConfigure_par (s : State) : (finishConfigure s).par = s.par := rfl

@[simp] theorem beginAutocal_par (s : State) : (beginAutocal s).par = s.par :=
  autocalInit_par s

@[simp] theorem endAutocal_par (s : State) : (endAutocal s).par = s.par := by
  rw [endAutocal, finishConfigure_par, autocalReport_par, calCorrect_par]

/-- One pass of the wait: the poll, then the end of CONFIGURE or one sweep (R77). -/
theorem calibrationStep_eq (s : State) :
    calibrationStep s =
      if s.env.doneAnswer 0 = true then endAutocal (diagInAvail s).2 else sweep (diagInAvail s).2 := by
  cases h : s.env.doneAnswer 0 <;> simp only [calibrationStep, diagInAvail, h] <;> rfl

@[simp] theorem calibrationStep_par (s : State) : (calibrationStep s).par = s.par := by
  rw [calibrationStep_eq]
  split_ifs
  · rw [endAutocal_par, diagInAvail_par]
  · rw [sweep_par, diagInAvail_par]

@[simp] theorem hostReset_par (s : State) : (hostReset s).par = s.par := rfl

theorem execConfigure_par (h : execConfigure s = .next t) : t.par = s.par := by
  unfold execConfigure at h
  dsimp only at h
  split_ifs at h <;> cases h <;> simp

theorem execSample_par (h : execSample s = .next t) : t.par = s.par := by
  unfold execSample at h
  split_ifs at h
  · cases hp : potSample (btnSample s) with
    | ok u => rw [hp] at h; cases h; rw [noResponse_par, potSample_par hp, btnSample_par]
    | error e => rw [hp] at h; cases h
  · cases h; rfl

theorem execEmit_par (h : execEmit s = .next t) : t.par = s.par := by
  cases h
  rw [noResponse_par, encodeFrame_par]

theorem execWrcal_par {e : Idx} {v : Nat} (h : execWrcal e v s = .next t) : t.par = s.par := by
  cases h
  rw [noResponse_par]
  split_ifs
  · exact writeCalOperand_par e v s
  · rfl

/-- No command writes the parameters. -/
theorem exec_par {i : Instr} (h : exec i s = .next t) : t.par = s.par := by
  cases i with
  | nop => cases h; rfl
  | configure => exact execConfigure_par h
  | sample => exact execSample_par h
  | emit => exact execEmit_par h
  | rdword j => cases h; rfl
  | rdpot k => cases h; rfl
  | rdcal e => cases h; rfl
  | wrcal e v => exact execWrcal_par h

/-- Settles O9, along everything a step can have done (`step_cases`). -/
theorem parametersNeverChange : Obligations.ParametersNeverChange := by
  intro s t h
  obtain ⟨-, idle | pause | reset | cutPass | cutRun | run | wait | waitPause⟩ := step_cases h
  · obtain ⟨-, -, rfl⟩ := idle; rfl
  · obtain ⟨rest, -, -, rfl⟩ := pause; rfl
  · obtain ⟨n, rest, -, -, rfl⟩ := reset; exact hostReset_par _
  · obtain ⟨n, rest, -, -, rfl⟩ := cutPass; exact cutShort_par _ _ _
  · obtain ⟨w, n, rest, u, -, -, -, rfl⟩ := cutRun; exact cutShort_par _ _ _
  · obtain ⟨w, rest, -, -, hrun⟩ := run; exact (exec_par hrun).trans rfl
  · obtain ⟨-, -, rfl⟩ := wait; exact calibrationStep_par s
  · obtain ⟨rest, -, -, rfl⟩ := waitPause; exact calibrationStep_par _

end Sys2Proof.Machine
end

section
/-! PROOFS. The fetch: what a step does with a command (R45, R47) and with a parameter set that
breaks R6. -/

namespace Sys2Proof

/-- The command the port selects is well formed when its data field is `c` bits wide. -/
theorem decodePort_wf (op : Opcode) (idx : Idx) {c v : Nat} (hv : v < 2 ^ c) :
    (decodePort op idx v).Wf c := by
  unfold decodePort
  split_ifs
  case neg => exact hv
  all_goals trivial

/-- Every command word decodes to a well-formed command. -/
theorem decodeWord_wf (c w : Nat) : (decodeWord c w).Wf c :=
  decodePort_wf _ _ (Nat.mod_lt _ (Nat.two_pow_pos c))

end Sys2Proof

namespace Sys2Proof.Machine

variable {s : State}

/-- An idle block runs the command at the head of the host's stream (R17, R42). -/
theorem step_command {w : Nat} {rest : List HostEvent} (hw : s.par.Wf) (hp : s.phase = .idle)
    (hh : s.host = .command w :: rest) :
    step s = exec (decodeWord s.par.C w) { s with host := rest } := by
  simp only [step, fetch_idle hw hp, fetchIdle, hh]

/-- A parameter set that breaks R6 is refused, whatever the phase and the host (log 12). -/
theorem step_of_not_wf (hw : ¬ s.par.Wf) : step s = .refused .malformedParameters := by
  rw [step, fetch, if_neg hw]

/-- Settles O5, from the fetch of an idle block and the range of the decoder. -/
theorem stepRunsTheDecodedCommand : Obligations.StepRunsTheDecodedCommand :=
  fun s w _ hw hp hh => ⟨decodeWord_wf s.par.C w, step_command hw hp hh⟩

/-- Settles O8: each violation contradicts the item of `Params.Wf` it is about. -/
theorem brokenParametersAreRefused : Obligations.BrokenParametersAreRefused := by
  intro s broken
  refine step_of_not_wf ?_
  rintro ⟨someBank, ⟨wholeBytes, wPos⟩, lengthFits, ⟨-, rPos, rFits⟩, ⟨-, maxRawPos, maxRawFits⟩,
    rawFits, btnTable, potTable⟩
  rcases broken with h | h | h | h | h | h | h | h | ⟨hcal, hpots, h⟩ | h | h
  · exact absurd someBank (by omega)
  · exact h wholeBytes
  · exact h.not_ge wPos
  · exact h.not_ge lengthFits
  · exact absurd rPos (by omega)
  · exact h.not_ge rFits
  · exact absurd maxRawPos (by omega)
  · exact h.not_ge maxRawFits
  · exact h.not_ge (rawFits hcal hpots)
  · exact h btnTable
  · exact h potTable

end Sys2Proof.Machine
end

section
/-! PROOFS. Reset (R22): every register is 0, so each part of the invariant holds of every legal
parameter set. -/

namespace Sys2Proof.Machine

theorem reference_wf : Params.reference.Wf := by decide

variable (p : Params)

@[simp] theorem resetWith_word (j : Nat) : (State.resetWith p).word j = 0 := by
  simp [State.word, State.resetWith]

theorem resetWith_registerCounts : (State.resetWith p).RegisterCounts :=
  ⟨List.length_replicate, List.length_replicate, List.length_replicate, List.length_replicate⟩

/-- A bank of zeros holds values of any width. -/
theorem lt_two_pow_of_mem_replicate_zero {n v : Nat} (w : Nat) (hv : v ∈ List.replicate n 0) :
    v < 2 ^ w := by
  rw [List.eq_of_mem_replicate hv]
  exact Nat.two_pow_pos w

theorem resetWith_registerWidths : (State.resetWith p).RegisterWidths :=
  ⟨fun _ => lt_two_pow_of_mem_replicate_zero _, fun _ => lt_two_pow_of_mem_replicate_zero _,
    fun _ => lt_two_pow_of_mem_replicate_zero _, fun _ => lt_two_pow_of_mem_replicate_zero _,
    Nat.two_pow_pos _⟩

theorem resetWith_unusedBitsZero : (State.resetWith p).UnusedBitsZero := fun b _ _ => by
  rw [resetWith_word, Nat.zero_testBit]

theorem resetWith_potsInRange : (State.resetWith p).PotsInRange := fun _ v hv => by
  rw [List.eq_of_mem_replicate hv]
  exact Nat.zero_le _

theorem resetWith_inv {p : Params} (hp : p.Wf) : (State.resetWith p).Inv := by
  have tableOpen : (State.resetWith p).NoDegeneratePair := fun h => nomatch h
  have notWaiting : (State.resetWith p).PhaseLegal := fun h => nomatch h
  exact ⟨hp, resetWith_registerCounts p, resetWith_registerWidths p, resetWith_unusedBitsZero p,
    resetWith_potsInRange p, tableOpen, notWaiting⟩

/-- Settles O12: the parameter set of log 1 is one of the legal ones. -/
theorem resetIsLegal : Obligations.ResetIsLegal :=
  ⟨resetWith_inv reference_wf, fun _ hp => resetWith_inv hp⟩

end Sys2Proof.Machine
end

section
/-! PROOFS. The steps that run no command of their own: the placed command (log 6), an idle block
(R17), the reset input (R22, R135, R141), and the checksum an EMIT forgets (R16). -/

namespace Sys2Proof.Machine

variable {s : State}

/-- An idle block with no event stays as it is (R17). -/
theorem step_noEvent (hw : s.par.Wf) (hp : s.phase = .idle) (hh : s.host = []) :
    step s = .next s := by
  simp only [step, fetch_idle hw hp, fetchIdle, hh]

/-- A pause of the host only shortens its stream (R17). -/
theorem step_pause {rest : List HostEvent} (hw : s.par.Wf) (hp : s.phase = .idle)
    (hh : s.host = .pause :: rest) : step s = .next { s with host := rest } := by
  simp only [step, fetch_idle hw hp, fetchIdle, hh]

/-- The reset input on an idle block (R135). -/
theorem step_reset {n : Nat} {rest : List HostEvent} (hw : s.par.Wf) (hp : s.phase = .idle)
    (hh : s.host = .reset n :: rest) : step s = .next (hostReset { s with host := rest }) := by
  simp only [step, fetch_idle hw hp, fetchIdle, hh]

/-- The reset input on a waiting block cuts the pass in progress (R141, R146). -/
theorem step_resetWaiting {n : Nat} {rest : List HostEvent} (hw : s.par.Wf)
    (hp : s.phase = .calibrating) (hh : s.host = .reset n :: rest) :
    step s = .next (cutShort n { s with host := rest } (calibrationStep { s with host := rest })) := by
  simp only [step, fetch_calibrating hw hp, fetchCalibrating, hh, cutOutcome_next]

/-- The reset input before a transaction, whatever the phase, is the plain reset (R135, R141). -/
theorem step_plainReset {n : Nat} {rest : List HostEvent} (hw : s.par.Wf)
    (hp : s.phase = .idle ∨ n = 0) (hh : s.host = .reset n :: rest) :
    step s = .next (hostReset { s with host := rest }) := by
  cases hphase : s.phase with
  | idle => exact step_reset hw hphase hh
  | calibrating =>
    obtain rfl : n = 0 := hp.resolve_left (by simp [hphase])
    exact (step_resetWaiting hw hphase hh).trans (congrArg _ (cutShort_zero _ _))

/-- The reset input sets every register but `csum` and `rsp_data` to its reset value (R22, R136). -/
theorem hostReset_resetsRegisters (s : State) :
    hostReset s = { resetRegisters s with
      csum := (hostReset s).csum, rspData := (hostReset s).rspData, draws := (hostReset s).draws } :=
  rfl

/-- The header initialises the accumulator before it uses it (R95). -/
theorem putHeader_withCsum (s : State) (c : Checksum) : putHeader { s with csum := c } = putHeader s :=
  rfl

theorem encodeFrame_withCsum (s : State) (c : Checksum) :
    encodeFrame { s with csum := c } = encodeFrame s := by
  simp only [encodeFrame, putHeader_withCsum]

/-- Settles O6: the placed word is the head of an idle block's stream. -/
theorem stepRunsThePlacedCommand : Obligations.StepRunsThePlacedCommand := by
  intro s nbits w hw
  exact step_command (s := s.withFetchWord nbits w) hw rfl rfl

/-- Settles O7. -/
theorem idleBlockChangesNothing : Obligations.IdleBlockChangesNothing :=
  fun _ hw hp => ⟨step_noEvent hw hp, fun _ => step_pause hw hp⟩

/-- Settles O10: the arrays are replicated zeros, the table of length `P` where it exists. -/
theorem resetValues : Obligations.ResetValues := by
  intro p
  refine ⟨fun j hj => ?_, fun k hk => ?_, fun hcal k hk => ?_, rfl, rfl, rfl⟩
  · exact List.getElem?_replicate_of_lt hj
  · exact List.getElem?_replicate_of_lt hk
  · have hcount : k < p.calCount := by rwa [Params.calCount, if_pos hcal]
    exact ⟨List.getElem?_replicate_of_lt hcount, List.getElem?_replicate_of_lt hcount⟩

/-- Settles O11: between transactions the reset input is the plain reset in both phases. -/
theorem resetInputResetsTheRegisters : Obligations.ResetInputResetsTheRegisters :=
  fun _ _ _ hw hp hh => ⟨_, step_plainReset hw hp hh, hostReset_resetsRegisters _⟩

/-- Settles O40: EMIT's first action overwrites `csum` (R95). -/
theorem emitForgetsTheOldChecksum : Obligations.EmitForgetsTheOldChecksum := by
  intro s c
  refine ⟨(encodeFrame s).noResponse, rfl, ?_⟩
  rw [exec, execEmit, encodeFrame_withCsum]

end Sys2Proof.Machine
end

section
/-! PROOFS. The writers of the registers (R10 to R13, R15): what CONFIGURE leaves of the banks, and
what SAMPLE, EMIT and WRCAL leave of the calibration. No lemma here needs a legal state. -/

namespace Sys2Proof.Machine

variable {s t : State}

/-- Both banks (R10, R12). -/
def State.banks (s : State) : List Nat × List Nat := (s.btnWords, s.dataPots)

/-- The calibration table and the flag that holds it (R13, R15). -/
def State.calibration (s : State) : List Nat × List Nat × Bool := (s.calMin, s.calMax, s.cfgDone)

theorem banks_eq_iff : t.banks = s.banks ↔ t.btnWords = s.btnWords ∧ t.dataPots = s.dataPots :=
  Prod.mk_inj

theorem calibration_eq_iff :
    t.calibration = s.calibration ↔ t.calMin = s.calMin ∧ t.calMax = s.calMax ∧ t.cfgDone = s.cfgDone := by
  simp [State.calibration]

/-! ### Loops -/

/-- A loop leaves what every pass leaves. -/
theorem forUp_leaves {α : Type} (r : State → α) {f : Nat → State → State}
    (hf : ∀ k u, r (f k u) = r u) (n : Nat) (s : State) : r (forUp n f s) = r s :=
  forUp_keeps (Q := fun u => r u = r s) (fun k u hu => (hf k u).trans hu) n rfl

/-- A loop that does not stop leaves what every completed pass leaves. -/
theorem forUpFault_leaves {α : Type} (r : State → α) {f : Nat → State → Except Fault State}
    (hf : ∀ k u v, f k u = .ok v → r v = r u) {n : Nat} (h : forUpFault n f s = .ok t) :
    r t = r s := by
  induction n generalizing t with
  | zero => cases h; rfl
  | succ n ih =>
    rw [forUpFault] at h
    cases hn : forUpFault n f s with
    | ok u => rw [hn] at h; exact (hf n u t h).trans (ih hn)
    | error e => rw [hn] at h; cases h

/-! ### CONFIGURE leaves the banks -/

@[simp] theorem btnConfigure_banks (s : State) : (btnConfigure s).banks = s.banks := by
  rw [btnConfigure_eq]; rfl

@[simp] theorem potPins_banks (s : State) : (potPins s).banks = s.banks := by
  rw [potPins_eq]; rfl

@[simp] theorem autocalInit_banks (s : State) : (autocalInit s).banks = s.banks :=
  forUp_leaves State.banks (fun _ _ => by rfl) _ s

theorem calCorrectChannel_banks (k : Nat) (s : State) : (calCorrectChannel k s).banks = s.banks := by
  unfold calCorrectChannel
  split_ifs <;> rfl

@[simp] theorem calCorrect_banks (s : State) : (calCorrect s).banks = s.banks :=
  forUp_leaves State.banks calCorrectChannel_banks _ s

@[simp] theorem beginAutocal_banks (s : State) : (beginAutocal s).banks = s.banks :=
  autocalInit_banks s

@[simp] theorem finishConfigure_banks (s : State) : (finishConfigure s).banks = s.banks := rfl

/-- What CONFIGURE does, by the table it finds: it begins a calibration, corrects the table, or only
sets the pins (R75, R111). -/
theorem execConfigure_cases (h : execConfigure s = .next t) :
    (hasTable s.par = true ∧ tableAllZero s = true ∧ t = beginAutocal (potPins (btnConfigure s))) ∨
    (hasTable s.par = true ∧ tableAllZero s = false ∧
      t = finishConfigure (calCorrect (potPins (btnConfigure s)))) ∨
    (hasTable s.par = false ∧ t = finishConfigure (potPins (btnConfigure s))) := by
  unfold execConfigure at h
  dsimp only at h
  split_ifs at h with htable hzero <;> cases h
  · exact .inl ⟨htable, hzero, rfl⟩
  · exact .inr (.inl ⟨htable, Bool.eq_false_iff.2 hzero, rfl⟩)
  · exact .inr (.inr ⟨Bool.eq_false_iff.2 htable, rfl⟩)

theorem execConfigure_banks (h : execConfigure s = .next t) : t.banks = s.banks := by
  obtain ⟨-, -, rfl⟩ | ⟨-, -, rfl⟩ | ⟨-, rfl⟩ := execConfigure_cases h <;> simp

@[simp] theorem finishConfigure_cfgDone (s : State) : (finishConfigure s).cfgDone = true := rfl

/-- CONFIGURE sets the flag or leaves it (R15). -/
theorem execConfigure_cfgDone (h : execConfigure s = .next t) (hd : s.cfgDone = true) :
    t.cfgDone = true := by
  obtain ⟨-, -, rfl⟩ | ⟨-, -, rfl⟩ | ⟨-, rfl⟩ := execConfigure_cases h
  · calc (beginAutocal (potPins (btnConfigure s))).cfgDone
        = (potPins (btnConfigure s)).cfgDone := forUp_leaves State.cfgDone (fun _ _ => by rfl) _ _
      _ = true := by rw [potPins_eq, btnConfigure_eq]; exact hd
  · exact finishConfigure_cfgDone _
  · exact finishConfigure_cfgDone _

/-! ### SAMPLE leaves the calibration -/

theorem sampleButton_calibration (i : Nat) (s : State) :
    (sampleButton i s).calibration = s.calibration := by
  unfold sampleButton
  dsimp only
  split_ifs <;> rfl

@[simp] theorem btnSample_calibration (s : State) : (btnSample s).calibration = s.calibration :=
  (forUp_leaves State.calibration sampleButton_calibration _ _).trans
    (forUp_leaves State.calibration (fun _ _ => by rfl) _ s)

theorem sampleChannelRemapped_calibration {k : Nat} (h : sampleChannelRemapped k s = .ok t) :
    t.calibration = s.calibration := by
  unfold sampleChannelRemapped at h
  dsimp only at h
  split at h <;> cases h
  rfl

theorem sampleChannelRaw_calibration {k : Nat} (h : sampleChannelRaw k s = .ok t) :
    t.calibration = s.calibration := by
  cases h
  rfl

theorem potSample_calibration (h : potSample s = .ok t) : t.calibration = s.calibration := by
  have hclear : (potClear s).calibration = s.calibration :=
    forUp_leaves State.calibration (fun _ _ => by rfl) _ s
  rw [← hclear]
  unfold potSample at h
  split_ifs at h
  · exact forUpFault_leaves State.calibration (fun _ _ _ => sampleChannelRemapped_calibration) h
  · exact forUpFault_leaves State.calibration (fun _ _ _ => sampleChannelRaw_calibration) h

/-- What SAMPLE does when it completes: nothing while `cfg_done = 0`, otherwise both banks are
sampled, the buttons first (R112). -/
theorem execSample_cases (h : execSample s = .next t) :
    (s.cfgDone = false ∧ t = s.noResponse) ∨
    (s.cfgDone = true ∧ ∃ u, potSample (btnSample s) = .ok u ∧ t = u.noResponse) := by
  unfold execSample State.sampleOpen at h
  split_ifs at h with hd
  · cases hp : potSample (btnSample s) with
    | ok u => rw [hp] at h; cases h; exact .inr ⟨hd, u, rfl, rfl⟩
    | error e => rw [hp] at h; cases h
  · cases h
    exact .inl ⟨Bool.eq_false_iff.2 hd, rfl⟩

theorem execSample_calibration (h : execSample s = .next t) : t.calibration = s.calibration := by
  obtain ⟨-, rfl⟩ | ⟨-, u, hu, rfl⟩ := execSample_cases h
  · rfl
  · exact (potSample_calibration hu).trans (btnSample_calibration s)

/-! ### EMIT and WRCAL -/

@[simp] theorem drainWord_calibration (j : Nat) (s : State) :
    (drainWord j s).calibration = s.calibration :=
  forUp_leaves State.calibration (fun _ _ => by rfl) _ s

@[simp] theorem drainPot_calibration (k : Nat) (s : State) :
    (drainPot k s).calibration = s.calibration :=
  forUp_leaves State.calibration (fun _ _ => by rfl) _ s

@[simp] theorem put_calibration (b : Byte) (s : State) : (put b s).calibration = s.calibration := rfl

theorem putHeader_calibration (s : State) : (putHeader s).calibration = s.calibration := by
  rw [putHeader, put_calibration, put_calibration, State.calibration, State.calibration]

/-- The trailer and the release of `csum` write only the record and `csum` (R100, R16). -/
theorem putTrailer_releaseCsum_calibration (s : State) :
    (putTrailer s).releaseCsum.calibration = s.calibration := rfl

/-- EMIT leaves the calibration: it writes the banks, `csum` and the record (R95). -/
@[simp] theorem encodeFrame_calibration (s : State) : (encodeFrame s).calibration = s.calibration := by
  rw [encodeFrame, putTrailer_releaseCsum_calibration,
    forUp_leaves State.calibration drainPot_calibration,
    forUp_leaves State.calibration drainWord_calibration, putHeader_calibration]

@[simp] theorem writeCalOperand_banks (e : Idx) (v : Nat) (s : State) :
    (s.writeCalOperand e v).banks = s.banks := by
  rw [writeCalOperand_eq]
  split_ifs <;> rfl

@[simp] theorem writeCalOperand_cfgDone (e : Idx) (v : Nat) (s : State) :
    (s.writeCalOperand e v).cfgDone = s.cfgDone := by
  rw [writeCalOperand_eq]
  split_ifs <;> rfl

/-- What WRCAL does: the write while `cfg_done = 0`, otherwise nothing (R87). -/
theorem execWrcal_cases {e : Idx} {v : Nat} (h : execWrcal e v s = .next t) :
    (s.cfgDone = false ∧ t = (s.writeCalOperand e v).noResponse) ∨
    (s.cfgDone = true ∧ t = s.noResponse) := by
  cases h
  cases hd : s.cfgDone
  · exact .inl ⟨rfl, by simp [State.tableOpen, hd]⟩
  · exact .inr ⟨rfl, by simp [State.tableOpen, hd]⟩

/-! ### The commands -/

/-- The banks are written only by SAMPLE and EMIT (R10, R12). -/
theorem exec_banks {i : Instr} (h : exec i s = .next t) (hs : i ≠ .sample) (he : i ≠ .emit) :
    t.banks = s.banks := by
  cases i with
  | nop => cases h; rfl
  | configure => exact execConfigure_banks h
  | sample => exact absurd rfl hs
  | emit => exact absurd rfl he
  | rdword j => cases h; rfl
  | rdpot k => cases h; rfl
  | rdcal e => cases h; rfl
  | wrcal e v =>
    obtain ⟨-, rfl⟩ | ⟨-, rfl⟩ := execWrcal_cases h
    · exact writeCalOperand_banks e v s
    · rfl

/-- The table is written only by CONFIGURE and WRCAL (R13). -/
theorem exec_calibration {i : Instr} (h : exec i s = .next t) (hc : i ≠ .configure)
    (hw : ∀ e v, i ≠ .wrcal e v) : t.calibration = s.calibration := by
  cases i with
  | nop => cases h; rfl
  | configure => exact absurd rfl hc
  | sample => exact execSample_calibration h
  | emit => cases h; exact encodeFrame_calibration s
  | rdword j => cases h; rfl
  | rdpot k => cases h; rfl
  | rdcal e => cases h; rfl
  | wrcal e v => exact absurd rfl (hw e v)

/-- `cfg_done` is written only by CONFIGURE (R15). -/
theorem exec_cfgDone {i : Instr} (h : exec i s = .next t) (hc : i ≠ .configure) :
    t.cfgDone = s.cfgDone := by
  by_cases hw : ∀ e v, i ≠ .wrcal e v
  · exact (calibration_eq_iff.1 (exec_calibration h hc hw)).2.2
  · push Not at hw
    obtain ⟨e, v, rfl⟩ := hw
    obtain ⟨-, rfl⟩ | ⟨-, rfl⟩ := execWrcal_cases h
    · exact writeCalOperand_cfgDone e v s
    · rfl

/-- No command clears `cfg_done` (R15). -/
theorem exec_cfgDone_of_configured {i : Instr} (h : exec i s = .next t) (hd : s.cfgDone = true) :
    t.cfgDone = true := by
  by_cases hc : i = .configure
  · subst hc
    exact execConfigure_cfgDone h hd
  · exact (exec_cfgDone h hc).trans hd

/-- Settles O15, register by register. -/
theorem registersHaveTheirWriters : Obligations.RegistersHaveTheirWriters := by
  intro i s t h
  refine ⟨fun hs he => banks_eq_iff.1 (exec_banks h hs he), fun hc hw => ?_, exec_cfgDone h,
    exec_cfgDone_of_configured h⟩
  obtain ⟨hmin, hmax, -⟩ := calibration_eq_iff.1 (exec_calibration h hc hw)
  exact ⟨hmin, hmax⟩

end Sys2Proof.Machine
end

section
/-! PROOFS. The invariant of a legal state, register by register, and that every operation of the
machine keeps it (R10 to R14, R46, R75). -/

namespace Sys2Proof

variable {p : Params}

/-! ### What R6 gives -/

theorem Params.Wf.word_pos (h : p.Wf) : 0 < p.W := by
  obtain ⟨-, ⟨-, hW⟩, -⟩ := h
  omega

theorem Params.Wf.word_bytes (h : p.Wf) : 8 * p.wb = p.W := by
  obtain ⟨-, ⟨hW, -⟩, -⟩ := h
  exact Nat.mul_div_cancel' (Nat.dvd_of_mod_eq_zero hW)

theorem Params.Wf.resolution_lt (h : p.Wf) : p.R < 2 ^ (8 * p.V) := by
  obtain ⟨-, -, -, ⟨-, -, hR⟩, -⟩ := h
  have := Nat.two_pow_pos (8 * p.V)
  omega

theorem Params.Wf.maxRaw_pos (h : p.Wf) : 0 < p.maxRaw := by
  obtain ⟨-, -, -, -, ⟨-, hpos, -⟩, -⟩ := h
  exact hpos

theorem Params.Wf.maxRaw_lt (h : p.Wf) : p.maxRaw < 2 ^ p.C := by
  obtain ⟨-, -, -, -, ⟨-, -, hmax⟩, -⟩ := h
  exact hmax.trans_lt (Machine.unsignedMax_lt p)

theorem calCount_of_calEn (h : p.calEn = true) : p.calCount = p.P := if_pos h

/-- The response port is as wide as every register it carries (R46). -/
theorem word_le_rspWidth (p : Params) : p.W ≤ p.rspWidth := le_max_left _ _

theorem pot_le_rspWidth (p : Params) : 8 * p.V ≤ p.rspWidth :=
  (le_max_left _ _).trans (le_max_right _ _)

theorem entry_le_rspWidth (p : Params) : p.C ≤ p.rspWidth :=
  (le_max_right _ _).trans (le_max_right _ _)

/-- The words have a bit for every button (R5). -/
theorem buttons_le_words (hW : 0 < p.W) : p.B ≤ p.nw * p.W := by
  have hdiv := Nat.div_add_mod (p.B + p.W - 1) p.W
  have hmod := Nat.mod_lt (p.B + p.W - 1) hW
  rw [Params.nw, Nat.mul_comm]
  omega

end Sys2Proof

namespace Sys2Proof.Machine

variable {s t : State} {p : Params}

theorem hasTable_iff : hasTable p = true ↔ 0 < p.P ∧ p.calEn = true := by
  simp [hasTable]

theorem calCount_of_hasTable (h : hasTable p = true) : p.calCount = p.P :=
  calCount_of_calEn (hasTable_iff.1 h).2

/-- A block without a table has no calibration register (R13). -/
theorem calCount_of_not_hasTable (h : hasTable p = false) : p.calCount = 0 := by
  rw [Params.calCount]
  split_ifs with hc
  · have : ¬ 0 < p.P := fun hP => Bool.eq_false_iff.1 h (hasTable_iff.2 ⟨hP, hc⟩)
    omega
  · rfl

/-! ### The invariant, one part for each register array -/

/-- A button bank of a legal state (R10, R11). -/
structure WordsLegal (p : Params) (ws : List Nat) : Prop where
  count : ws.length = p.nw
  width : ∀ v ∈ ws, v < 2 ^ p.W
  unused : ∀ b < p.W, p.B ≤ (p.nw - 1) * p.W + b → (ws.getD (p.nw - 1) 0).testBit b = false

/-- A potentiometer bank of a legal state (R12). -/
structure PotsLegal (p : Params) (vs : List Nat) : Prop where
  count : vs.length = p.P
  width : ∀ v ∈ vs, v < 2 ^ (8 * p.V)
  range : p.calEn = true → ∀ v ∈ vs, v ≤ p.R

/-- One half of the calibration table of a legal state (R13). -/
structure EntriesLegal (p : Params) (es : List Nat) : Prop where
  count : es.length = p.calCount
  width : ∀ v ∈ es, v < 2 ^ p.C

/-- `State.Inv`, its conjuncts gathered by register array. -/
structure State.Legal (s : State) : Prop where
  params : s.par.Wf
  words : WordsLegal s.par s.btnWords
  pots : PotsLegal s.par s.dataPots
  mins : EntriesLegal s.par s.calMin
  maxs : EntriesLegal s.par s.calMax
  response : s.rspData < 2 ^ s.par.rspWidth
  pairs : s.NoDegeneratePair
  waits : s.PhaseLegal

theorem inv_iff_legal : s.Inv ↔ s.Legal := by
  constructor
  · rintro ⟨params, ⟨words, pots, mins, maxs⟩, ⟨wordsW, potsW, minsW, maxsW, response⟩, unused, range,
      pairs, waits⟩
    exact ⟨params, ⟨words, wordsW, unused⟩, ⟨pots, potsW, range⟩, ⟨mins, minsW⟩, ⟨maxs, maxsW⟩,
      response, pairs, waits⟩
  · rintro ⟨params, ⟨words, wordsW, unused⟩, ⟨pots, potsW, range⟩, ⟨mins, minsW⟩, ⟨maxs, maxsW⟩,
      response, pairs, waits⟩
    exact ⟨params, ⟨words, pots, mins, maxs⟩, ⟨wordsW, potsW, minsW, maxsW, response⟩, unused, range,
      pairs, waits⟩

/-! ### Banks and tables the commands write -/

theorem wordsLegal_zero (p : Params) : WordsLegal p (List.replicate p.nw 0) :=
  ⟨List.length_replicate, fun _ => lt_two_pow_of_mem_replicate_zero _, resetWith_unusedBitsZero p⟩

theorem potsLegal_zero (p : Params) : PotsLegal p (List.replicate p.P 0) :=
  ⟨List.length_replicate, fun _ => lt_two_pow_of_mem_replicate_zero _, resetWith_potsInRange p⟩

theorem potsLegal_map {f : Nat → Nat} (hlt : ∀ k, f k < 2 ^ (8 * p.V))
    (hle : p.calEn = true → ∀ k, f k ≤ p.R) : PotsLegal p ((List.range p.P).map f) :=
  ⟨by simp, by simpa using fun k _ => hlt k, fun hc => by simpa using fun k _ => hle hc k⟩

theorem entriesLegal_replicate {v : Nat} (hv : v < 2 ^ p.C) :
    EntriesLegal p (List.replicate p.calCount v) :=
  ⟨List.length_replicate, fun _ hu => List.eq_of_mem_replicate hu ▸ hv⟩

theorem entriesLegal_map {f : Nat → Nat} (hf : ∀ k < p.calCount, f k < 2 ^ p.C) :
    EntriesLegal p ((List.range p.calCount).map f) :=
  ⟨by simp, by simpa using hf⟩

theorem EntriesLegal.set {es : List Nat} (h : EntriesLegal p es) (k : Nat) {v : Nat}
    (hv : v < 2 ^ p.C) : EntriesLegal p (es.set k v) := by
  refine ⟨List.length_set.trans h.count, fun u hu => ?_⟩
  rcases List.mem_or_eq_of_mem_set hu with hmem | rfl
  · exact h.width u hmem
  · exact hv

/-- What the packing law gives is a legal bank: the last word ends at the last button (R11, R70). -/
theorem packedWords_legal (hW : 0 < p.W) (v : Nat → Bool) : WordsLegal p (packedWords p v) := by
  refine ⟨by simp [packedWords], ?_, fun b _ hb => ?_⟩
  · simpa [packedWords, packedWord_eq] using fun j _ => packedUpTo_lt_width p v p.B j hW
  · rcases Nat.eq_zero_or_pos p.nw with hn | hn
    · simp [packedWords, hn]
    · have hlast : p.B ≤ (p.nw - 1 + 1) * p.W := by
        rw [Nat.sub_add_cancel hn]
        exact buttons_le_words hW
      have hlt := packedUpTo_lt p v p.B (p.nw - 1) hlast
      rw [packedWords, getD_map_range _ _ (by omega), packedWord_eq]
      exact Nat.testBit_lt_two_pow (hlt.trans_le (Nat.pow_le_pow_right (by omega) (by omega)))

/-- What POT.SAMPLE stores fits the register (R83, R84). -/
theorem sampledPot_lt (hp : s.par.Wf) (raw k : Nat) : sampledPot s raw k < 2 ^ (8 * s.par.V) := by
  unfold sampledPot
  split_ifs
  · exact (remapFormula_le _ _ _ _).trans_lt hp.resolution_lt
  · exact Nat.mod_lt _ (Nat.two_pow_pos _)

theorem sampledPot_le (hc : s.par.calEn = true) (raw k : Nat) : sampledPot s raw k ≤ s.par.R := by
  rw [sampledPot, if_pos hc]
  exact remapFormula_le _ _ _ _

/-- CAL.UPDATE leaves a pair of samples and old bounds (R78). -/
theorem calUpdatePair_lt {x mn mx b : Nat} (hx : x < b) (hmn : mn < b) (hmx : mx < b) :
    (calUpdatePair x mn mx).1 < b ∧ (calUpdatePair x mn mx).2 < b := by
  unfold calUpdatePair
  split_ifs
  · exact ⟨hx, hmx⟩
  · exact ⟨hmn, hx⟩
  · exact ⟨hmn, hmx⟩

theorem correctedPair_lt (hp : p.Wf) {pair : Nat × Nat} (h1 : pair.1 < 2 ^ p.C)
    (h2 : pair.2 < 2 ^ p.C) :
    (correctedPair p pair).1 < 2 ^ p.C ∧ (correctedPair p pair).2 < 2 ^ p.C := by
  unfold correctedPair
  split_ifs
  · exact ⟨Nat.two_pow_pos _, hp.maxRaw_lt⟩
  · exact ⟨h1, h2⟩

/-- A corrected pair is not degenerate, since `MAX_RAW` is not 0 (R79, R6). -/
theorem correctedPair_ne (hp : p.Wf) (pair : Nat × Nat) :
    (correctedPair p pair).1 ≠ (correctedPair p pair).2 := by
  unfold correctedPair
  split_ifs with hd
  · exact hp.maxRaw_pos.ne
  · exact hd

/-! ### What the readers see -/

theorem getD_lt {l : List Nat} {b : Nat} (hb : 0 < b) (h : ∀ v ∈ l, v < b) (k : Nat) :
    l.getD k 0 < b := by
  by_cases hk : k < l.length
  · simpa [hk] using h _ (List.getElem_mem hk)
  · simpa [Nat.le_of_not_lt hk] using hb

namespace State.Legal

theorem word_lt (h : s.Legal) (j : Nat) : s.word j < 2 ^ s.par.W :=
  getD_lt (Nat.two_pow_pos _) h.words.width j

theorem pot_lt (h : s.Legal) (k : Nat) : s.pot k < 2 ^ (8 * s.par.V) :=
  getD_lt (Nat.two_pow_pos _) h.pots.width k

theorem minOf_lt (h : s.Legal) (k : Nat) : s.minOf k < 2 ^ s.par.C :=
  getD_lt (Nat.two_pow_pos _) h.mins.width k

theorem maxOf_lt (h : s.Legal) (k : Nat) : s.maxOf k < 2 ^ s.par.C :=
  getD_lt (Nat.two_pow_pos _) h.maxs.width k

theorem readWordOperand_lt (h : s.Legal) (j : Idx) : s.readWordOperand j < 2 ^ s.par.rspWidth := by
  rw [readWordOperand_eq]
  split_ifs
  · exact (h.word_lt _).trans_le (Nat.pow_le_pow_right Nat.two_pos (word_le_rspWidth _))
  · exact Nat.two_pow_pos _

theorem readPotOperand_lt (h : s.Legal) (k : Idx) : s.readPotOperand k < 2 ^ s.par.rspWidth := by
  rw [readPotOperand_eq]
  split_ifs
  · exact (h.pot_lt _).trans_le (Nat.pow_le_pow_right Nat.two_pos (pot_le_rspWidth _))
  · exact Nat.two_pow_pos _

theorem readCalOperand_lt (h : s.Legal) (e : Idx) : s.readCalOperand e < 2 ^ s.par.rspWidth := by
  have entry {v : Nat} (hv : v < 2 ^ s.par.C) : v < 2 ^ s.par.rspWidth :=
    hv.trans_le (Nat.pow_le_pow_right Nat.two_pos (entry_le_rspWidth _))
  rw [readCalOperand_eq]
  split_ifs
  · exact entry (h.minOf_lt _)
  · exact entry (h.maxOf_lt _)
  · exact Nat.two_pow_pos _

/-- A settled table is not all zero: pair 0 would be degenerate (R14, R75). -/
theorem tableAllZero_eq_false (h : s.Legal) (hd : s.cfgDone = true) (ht : hasTable s.par = true) :
    tableAllZero s = false := by
  rw [Bool.eq_false_iff]
  intro hzero
  have hP : 0 < s.par.calCount := calCount_of_hasTable ht ▸ (hasTable_iff.1 ht).1
  rw [tableAllZero, Bool.and_eq_true, List.all_eq_true, List.all_eq_true] at hzero
  obtain ⟨hmins, hmaxs⟩ := hzero
  have hmin : s.minOf 0 = 0 := by
    rw [minOf_of_lt s (h.mins.count ▸ hP)]
    exact beq_iff_eq.1 (hmins _ (List.getElem_mem _))
  have hmax : s.maxOf 0 = 0 := by
    rw [maxOf_of_lt s (h.maxs.count ▸ hP)]
    exact beq_iff_eq.1 (hmaxs _ (List.getElem_mem _))
  exact h.pairs hd 0 hP (hmin.trans hmax.symm)

/-! ### The operations keep the invariant -/

theorem withHost (h : s.Legal) (rest : List HostEvent) : State.Legal { s with host := rest } :=
  { h with }

theorem respond (h : s.Legal) {v : Nat} (hv : v < 2 ^ s.par.rspWidth) : (s.respond v).Legal :=
  { h with response := hv }

theorem noResponse (h : s.Legal) : s.noResponse.Legal :=
  { h with response := Nat.mod_lt _ (Nat.two_pow_pos _) }

theorem diagInAvail (h : s.Legal) : (diagInAvail s).2.Legal :=
  { h with }

theorem configurePins (h : s.Legal) : (potPins (btnConfigure s)).Legal := by
  rw [potPins_eq, btnConfigure_eq]
  exact { h with }

theorem autocalReport (h : s.Legal) : (autocalReport s).Legal := by
  rw [autocalReport_eq]
  exact { h with }

theorem writeCalOperand (h : s.Legal) (hopen : s.cfgDone = false) (e : Idx) (v : Nat) :
    (s.writeCalOperand e v).Legal := by
  have hv : v % 2 ^ s.par.C < 2 ^ s.par.C := Nat.mod_lt _ (Nat.two_pow_pos _)
  rw [writeCalOperand_eq]
  split_ifs
  · exact { h with mins := h.mins.set _ hv, pairs := fun hd => nomatch hopen.symm.trans hd }
  · exact { h with maxs := h.maxs.set _ hv, pairs := fun hd => nomatch hopen.symm.trans hd }
  · exact h

theorem btnSample (h : s.Legal) : (btnSample s).Legal := by
  rw [btnSample_eq h.params.word_pos h.words.count]
  exact { h with words := packedWords_legal h.params.word_pos _ }

theorem potSample (h : s.Legal) (hd : s.cfgDone = true) (ht : potSample s = .ok t) : t.Legal := by
  have hpairs : s.par.calEn = true → ∀ k < s.par.P, s.minOf k ≠ s.maxOf k := fun hc k hk =>
    h.pairs hd k (by rwa [calCount_of_calEn hc])
  rw [potSample_eq h.params.resolution_lt h.pots.count hpairs] at ht
  cases ht
  exact { h with
    pots := potsLegal_map (fun k => sampledPot_lt h.params _ k) fun hc k => sampledPot_le hc _ k }

theorem encodeFrame (h : s.Legal) : (encodeFrame s).Legal := by
  rw [encodeFrame_eq h.params.word_bytes h.words.count h.pots.count h.words.width h.pots.width]
  exact { h with words := wordsLegal_zero _, pots := potsLegal_zero _ }

theorem beginAutocal (h : s.Legal) (ht : hasTable s.par = true) (hopen : s.cfgDone = false) :
    (beginAutocal s).Legal := by
  have hcount := calCount_of_hasTable ht
  rw [Machine.beginAutocal, autocalInit_eq (h.mins.count.trans hcount) (h.maxs.count.trans hcount),
    ← hcount]
  exact { h with
    mins := entriesLegal_replicate (unsignedMax_lt _)
    maxs := entriesLegal_replicate (Nat.two_pow_pos _)
    pairs := fun hd => nomatch hopen.symm.trans hd
    waits := fun _ => ⟨ht, hopen⟩ }

theorem sweep (h : s.Legal) (ht : hasTable s.par = true) (hopen : s.cfgDone = false) :
    (sweep s).Legal := by
  have hcount := calCount_of_hasTable ht
  have hpair (k : Nat) := calUpdatePair_lt (analogAnswer_lt s.env s.par.C k) (h.minOf_lt k) (h.maxOf_lt k)
  rw [sweep_eq (h.mins.count.trans hcount) (h.maxs.count.trans hcount), ← hcount]
  exact { h with
    mins := entriesLegal_map fun k _ => (hpair k).1
    maxs := entriesLegal_map fun k _ => (hpair k).2
    pairs := fun hd => nomatch hopen.symm.trans hd }

/-- CAL.CORRECT in a legal state: a legal table without a degenerate pair (R14, R79). -/
theorem calCorrect (h : s.Legal) (ht : hasTable s.par = true) :
    (calCorrect s).Legal ∧
      ∀ k < (calCorrect s).par.calCount, (calCorrect s).minOf k ≠ (calCorrect s).maxOf k := by
  have hcount := calCount_of_hasTable ht
  have hlt (k : Nat) := correctedPair_lt (pair := (s.minOf k, s.maxOf k)) h.params (h.minOf_lt k) (h.maxOf_lt k)
  rw [calCorrect_eq h.params.maxRaw_lt (h.mins.count.trans hcount) (h.maxs.count.trans hcount), ← hcount]
  have hne : ∀ k < s.par.calCount,
      ((List.range s.par.calCount).map fun k => (correctedPair s.par (s.minOf k, s.maxOf k)).1).getD k 0 ≠
        ((List.range s.par.calCount).map fun k => (correctedPair s.par (s.minOf k, s.maxOf k)).2).getD k 0 := by
    intro k hk
    rw [getD_map_range _ _ hk, getD_map_range _ _ hk]
    exact correctedPair_ne h.params _
  exact ⟨{ h with
    mins := entriesLegal_map fun k _ => (hlt k).1
    maxs := entriesLegal_map fun k _ => (hlt k).2
    pairs := fun _ => hne }, hne⟩

theorem finishConfigure (h : s.Legal) (hne : ∀ k < s.par.calCount, s.minOf k ≠ s.maxOf k) :
    (finishConfigure s).Legal :=
  { h with
    response := Nat.mod_lt _ (Nat.two_pow_pos _)
    pairs := fun _ => hne
    waits := fun hw => nomatch hw }

theorem endAutocal (h : s.Legal) (ht : hasTable s.par = true) : (endAutocal s).Legal := by
  obtain ⟨hlegal, hne⟩ := h.calCorrect ht
  refine hlegal.autocalReport.finishConfigure ?_
  rw [autocalReport_eq]
  exact hne

/-- One pass of the wait (R77): the flag is 0 and there is a table, since the block waits. -/
theorem calibrationStep (h : s.Legal) (hp : s.phase = .calibrating) : (calibrationStep s).Legal := by
  obtain ⟨htable, hopen⟩ := h.waits hp
  rw [calibrationStep_eq]
  split_ifs
  · exact h.diagInAvail.endAutocal htable
  · exact h.diagInAvail.sweep htable hopen

/-! ### The commands and the reset input keep the invariant -/

theorem execConfigure (h : s.Legal) (he : execConfigure s = .next t) : t.Legal := by
  have hpar : (potPins (btnConfigure s)).par = s.par := by simp
  obtain ⟨htable, hzero, rfl⟩ | ⟨htable, -, rfl⟩ | ⟨hnone, rfl⟩ := execConfigure_cases he
  · have hopen : s.cfgDone = false := Bool.eq_false_iff.2 fun hd =>
      Bool.eq_false_iff.1 (h.tableAllZero_eq_false hd htable) hzero
    refine h.configurePins.beginAutocal (hpar.symm ▸ htable) ?_
    rw [potPins_eq, btnConfigure_eq]
    exact hopen
  · obtain ⟨hlegal, hne⟩ := h.configurePins.calCorrect (hpar.symm ▸ htable)
    exact hlegal.finishConfigure hne
  · refine h.configurePins.finishConfigure fun k hk => ?_
    rw [hpar, calCount_of_not_hasTable hnone] at hk
    exact absurd hk k.not_lt_zero

theorem execSample (h : s.Legal) (he : execSample s = .next t) : t.Legal := by
  obtain ⟨-, rfl⟩ | ⟨hd, u, hu, rfl⟩ := execSample_cases he
  · exact h.noResponse
  · obtain ⟨-, -, hkeep⟩ := calibration_eq_iff.1 (btnSample_calibration s)
    exact (h.btnSample.potSample (hkeep.trans hd) hu).noResponse

theorem execWrcal (h : s.Legal) {e : Idx} {v : Nat} (he : execWrcal e v s = .next t) : t.Legal := by
  obtain ⟨hopen, rfl⟩ | ⟨-, rfl⟩ := execWrcal_cases he
  · exact (h.writeCalOperand hopen e v).noResponse
  · exact h.noResponse

/-- Every command keeps the invariant. -/
theorem exec {i : Instr} (h : s.Legal) (he : exec i s = .next t) : t.Legal := by
  cases i with
  | nop => cases he; exact h.noResponse
  | configure => exact h.execConfigure he
  | sample => exact h.execSample he
  | emit => cases he; exact h.encodeFrame.noResponse
  | rdword j => cases he; exact h.respond (h.readWordOperand_lt j)
  | rdpot k => cases he; exact h.respond (h.readPotOperand_lt k)
  | rdcal e => cases he; exact h.respond (h.readCalOperand_lt e)
  | wrcal e v => exact h.execWrcal he

end State.Legal

/-- The reset input leaves a legal state, whatever the registers held (R22, R135). -/
theorem hostReset_legal (hw : s.par.Wf) : (hostReset s).Legal :=
  { inv_iff_legal.1 (resetWith_inv hw) with response := Nat.mod_lt _ (Nat.two_pow_pos _) }

/-- So does one inside a command or a pass (R146). -/
theorem cutShort_legal (n : Nat) (hw : s.par.Wf) (t : State) : (cutShort n s t).Legal :=
  hostReset_legal hw

/-- Settles O13, along everything a step can have done (`step_cases`). -/
theorem everyStepKeepsTheInvariant : Obligations.EveryStepKeepsTheInvariant := by
  intro s t hinv hstep
  have h : s.Legal := inv_iff_legal.1 hinv
  rw [inv_iff_legal]
  obtain ⟨hw, idle | pause | reset | cutPass | cutRun | run | wait | waitPause⟩ := step_cases hstep
  · obtain ⟨-, -, rfl⟩ := idle; exact h
  · obtain ⟨rest, -, -, rfl⟩ := pause; exact h.withHost rest
  · obtain ⟨n, rest, -, -, rfl⟩ := reset; exact hostReset_legal hw
  · obtain ⟨n, rest, -, -, rfl⟩ := cutPass; exact cutShort_legal n (h.withHost rest).params _
  · obtain ⟨w, n, rest, u, -, -, -, rfl⟩ := cutRun; exact cutShort_legal n (h.withHost rest).params u
  · obtain ⟨w, rest, -, -, hrun⟩ := run; exact (h.withHost rest).exec hrun
  · obtain ⟨hp, -, rfl⟩ := wait; exact h.calibrationStep hp
  · obtain ⟨rest, hp, -, rfl⟩ := waitPause; exact (h.withHost rest).calibrationStep hp

end Sys2Proof.Machine
end

section
/-! PROOFS. A settled table is held for life (R13, R15, R91): CAL.CORRECT finds no degenerate pair
in it, a repeated CONFIGURE does not calibrate again, and WRCAL is gated off. -/

namespace Sys2Proof.Machine

variable {s t : State}

/-- CAL.CORRECT leaves a table without a degenerate pair as it is and reports nothing (R79, R91). -/
theorem calCorrect_of_nondegenerate (hne : ∀ k < s.par.P, s.minOf k ≠ s.maxOf k) :
    calCorrect s = s := by
  have pass : ∀ n ≤ s.par.P, forUp n calCorrectChannel s = s := by
    intro n
    induction n with
    | zero => exact fun _ => rfl
    | succ n ih =>
      intro hn
      rw [forUp_succ, ih (Nat.le_of_succ_le hn), calCorrectChannel, if_neg (hne n hn)]
  exact pass _ le_rfl

theorem configurePins_calibration (s : State) :
    (potPins (btnConfigure s)).calibration = s.calibration := by
  rw [potPins_eq, btnConfigure_eq]
  rfl

/-- The end of CONFIGURE leaves the table, and the flag where it is already set (R15). -/
theorem finishConfigure_calibration (hd : s.cfgDone = true) :
    (finishConfigure s).calibration = s.calibration :=
  calibration_eq_iff.2 ⟨rfl, rfl, hd.symm⟩

/-- A repeated CONFIGURE leaves the calibration of a legal state (R91). -/
theorem execConfigure_calibration (h : s.Legal) (hd : s.cfgDone = true)
    (he : execConfigure s = .next t) : t.calibration = s.calibration := by
  have hpins := configurePins_calibration s
  obtain ⟨-, -, hkeep⟩ := calibration_eq_iff.1 hpins
  have hdone : (potPins (btnConfigure s)).cfgDone = true := hkeep.trans hd
  obtain ⟨htable, hzero, -⟩ | ⟨htable, -, rfl⟩ | ⟨-, rfl⟩ := execConfigure_cases he
  · exact absurd hzero (Bool.eq_false_iff.1 (h.tableAllZero_eq_false hd htable))
  · have hpar : (potPins (btnConfigure s)).par = s.par := by simp
    have hcount := calCount_of_hasTable (hpar.symm ▸ htable)
    rw [calCorrect_of_nondegenerate (hcount ▸ h.configurePins.pairs hdone)]
    exact (finishConfigure_calibration hdone).trans hpins
  · exact (finishConfigure_calibration hdone).trans hpins

/-- In a legal state with `cfg_done = 1` no command writes the calibration (R13, R15, R91). -/
theorem exec_calibration_of_configured {i : Instr} (h : s.Legal) (hd : s.cfgDone = true)
    (he : exec i s = .next t) : t.calibration = s.calibration := by
  cases i with
  | configure => exact execConfigure_calibration h hd he
  | wrcal e v =>
    obtain ⟨hopen, -⟩ | ⟨-, rfl⟩ := execWrcal_cases he
    · exact nomatch hopen.symm.trans hd
    · rfl
  | nop | sample | emit | rdword | rdpot | rdcal => exact exec_calibration he nofun nofun

/-- Settles O17: a configured block is idle, so its step is an idle one or a command. -/
theorem tableIsHeldForLife : Obligations.TableIsHeldForLife := by
  intro s t hinv hd hreset hcut hstep
  have h : s.Legal := inv_iff_legal.1 hinv
  have notWaiting : s.phase ≠ .calibrating := fun hp => nomatch (h.waits hp).2.symm.trans hd
  suffices hcal : t.calibration = s.calibration by
    obtain ⟨hmin, hmax, hdone⟩ := calibration_eq_iff.1 hcal
    exact ⟨hmin, hmax, hdone.trans hd⟩
  obtain ⟨-, idle | pause | reset | cutPass | cutRun | run | wait | waitPause⟩ := step_cases hstep
  · obtain ⟨-, -, rfl⟩ := idle; rfl
  · obtain ⟨rest, -, -, rfl⟩ := pause; rfl
  · obtain ⟨n, rest, -, hhost, -⟩ := reset; exact absurd hhost (hreset n rest)
  · obtain ⟨n, rest, hp, -, -⟩ := cutPass; exact absurd hp notWaiting
  · obtain ⟨w, n, rest, u, -, hhost, -, -⟩ := cutRun; exact absurd hhost (hcut w n rest)
  · obtain ⟨w, rest, -, -, hrun⟩ := run
    exact (exec_calibration_of_configured (h.withHost rest) hd hrun).trans rfl
  · obtain ⟨hp, -, -⟩ := wait; exact absurd hp notWaiting
  · obtain ⟨rest, hp, -, -⟩ := waitPause; exact absurd hp notWaiting

end Sys2Proof.Machine
end

section
/-! PROOFS. The frame an EMIT writes, offset by offset (R32, R38): its length, where each byte of a
word, of a value and of the checksum stands, and where the bit of each button. -/

namespace Sys2Proof.Machine

variable {s : State} {p : Params} {words pots : List Nat}

/-! ### Fields and banks of fields -/

@[simp] theorem length_fieldBytes (n v : Nat) : (fieldBytes n v).length = n := by
  simp [fieldBytes]

/-- Byte `i` of a field (R31, R51). -/
theorem getElem?_fieldBytes {n i : Nat} (v : Nat) (hi : i < n) :
    (fieldBytes n v)[i]? = some (BitVec.ofNat 8 (v / 2 ^ (8 * i))) := by
  simp [fieldBytes, hi, Nat.shiftRight_eq_div_pow]

theorem length_flatMap_fieldBytes (n : Nat) (vs : List Nat) :
    (vs.flatMap (fieldBytes n)).length = vs.length * n := by
  simp [List.length_flatMap]

/-- Field `k` of a bank begins after the `k` fields below it. -/
theorem getElem?_flatMap_fieldBytes {n k i : Nat} (vs : List Nat) (hk : k < vs.length) (hi : i < n) :
    (vs.flatMap (fieldBytes n))[k * n + i]? =
      some (BitVec.ofNat 8 (vs.getD k 0 / 2 ^ (8 * i))) := by
  induction vs generalizing k with
  | nil => simp at hk
  | cons v vs ih =>
    cases k with
    | zero =>
      rw [List.flatMap_cons, Nat.zero_mul, Nat.zero_add, List.getElem?_append_left (by simpa using hi)]
      exact getElem?_fieldBytes v hi
    | succ k =>
      have hoffset : (k + 1) * n + i = (fieldBytes n v).length + (k * n + i) := by
        rw [length_fieldBytes, Nat.succ_mul]
        omega
      rw [List.flatMap_cons, hoffset, List.getElem?_append_right (Nat.le_add_right _ _),
        Nat.add_sub_cancel_left]
      exact ih (Nat.lt_of_succ_lt_succ hk)

/-- Byte `i` of field `k` lies inside the bank. -/
theorem field_offset_lt {n m k i : Nat} (hk : k < m) (hi : i < n) : k * n + i < m * n := by
  have hfields : (k + 1) * n ≤ m * n := Nat.mul_le_mul_right n hk
  rw [Nat.succ_mul] at hfields
  omega

/-! ### The frame of two banks -/

/-- The summed bytes are the frame without its trailer (R38, R99). -/
theorem length_summedBytes (hw : words.length = p.nw) (hp : pots.length = p.P) :
    (summedBytes p words pots).length = p.frameLen - 2 := by
  simp only [summedBytes, payloadBytes, Params.frameLen, List.length_cons, List.length_append,
    length_flatMap_fieldBytes, hw, hp]
  omega

theorem four_le_frameLen (p : Params) : 4 ≤ p.frameLen := by
  rw [Params.frameLen, Nat.add_assoc]
  exact Nat.le_add_right _ _

theorem length_frameBytes (hw : words.length = p.nw) (hp : pots.length = p.P) :
    (frameBytes p words pots).length = p.frameLen := by
  have hlen := four_le_frameLen p
  rw [frameBytes, List.length_append, length_summedBytes hw hp, length_fieldBytes]
  omega

theorem take_frameBytes (hw : words.length = p.nw) (hp : pots.length = p.P) :
    (frameBytes p words pots).take (p.frameLen - 2) = summedBytes p words pots :=
  List.take_left' (length_summedBytes hw hp)

/-- The frame after its two header bytes: words, values, checksum (R38). -/
theorem getElem?_frameBytes_body (p : Params) (words pots : List Nat) (n : Nat) :
    (frameBytes p words pots)[2 + n]? =
      (words.flatMap (fieldBytes p.wb) ++ (pots.flatMap (fieldBytes p.V) ++
        fieldBytes 2 (checksumOf (summedBytes p words pots)).toNat))[n]? := by
  rw [Nat.add_comm, ← List.append_assoc]
  rfl

/-- Byte `i` of word `j` in the frame (R38). -/
theorem getElem?_frameBytes_word {j i : Nat} (hw : words.length = p.nw) (hj : j < p.nw)
    (hi : i < p.wb) :
    (frameBytes p words pots)[2 + (j * p.wb + i)]? =
      some (BitVec.ofNat 8 (words.getD j 0 / 2 ^ (8 * i))) := by
  have hin : j * p.wb + i < (words.flatMap (fieldBytes p.wb)).length := by
    rw [length_flatMap_fieldBytes, hw]
    exact field_offset_lt hj hi
  rw [getElem?_frameBytes_body, List.getElem?_append_left hin]
  exact getElem?_flatMap_fieldBytes words (hw ▸ hj) hi

/-- Byte `i` of value `k` in the frame (R38). -/
theorem getElem?_frameBytes_pot {k i : Nat} (hw : words.length = p.nw) (hp : pots.length = p.P)
    (hk : k < p.P) (hi : i < p.V) :
    (frameBytes p words pots)[2 + (p.nw * p.wb + (k * p.V + i))]? =
      some (BitVec.ofNat 8 (pots.getD k 0 / 2 ^ (8 * i))) := by
  have hwords : (words.flatMap (fieldBytes p.wb)).length = p.nw * p.wb := by
    rw [length_flatMap_fieldBytes, hw]
  have hin : k * p.V + i < (pots.flatMap (fieldBytes p.V)).length := by
    rw [length_flatMap_fieldBytes, hp]
    exact field_offset_lt hk hi
  rw [getElem?_frameBytes_body, List.getElem?_append_right (hwords ▸ Nat.le_add_right _ _), hwords,
    Nat.add_sub_cancel_left, List.getElem?_append_left hin]
  exact getElem?_flatMap_fieldBytes pots (hp ▸ hk) hi

/-- Byte `i` of the checksum in the frame, low byte first (R38, R100). -/
theorem getElem?_frameBytes_checksum {i : Nat} (hw : words.length = p.nw) (hp : pots.length = p.P)
    (hi : i < 2) :
    (frameBytes p words pots)[p.frameLen - 2 + i]? =
      some (BitVec.ofNat 8 ((checksumOf (summedBytes p words pots)).toNat / 2 ^ (8 * i))) := by
  have hsum := length_summedBytes hw hp
  rw [frameBytes, List.getElem?_append_right (hsum ▸ Nat.le_add_right _ _), hsum,
    Nat.add_sub_cancel_left]
  exact getElem?_fieldBytes _ hi

/-! ### The frame of an EMIT -/

/-- EMIT on a legal state (R95, R101); `csum` and `rsp_data` take free values (R16, R46). -/
theorem exec_emit_eq (h : s.Legal) :
    exec .emit s = .next
      { emittedState s with
        csum := Config.freeCsum s.draws
        draws := s.draws + 2
        rspData := Config.freeRspData (s.draws + 1) % 2 ^ s.par.rspWidth } := by
  change Host.Outcome.next (encodeFrame s).noResponse = _
  rw [encodeFrame_eq h.params.word_bytes h.words.count h.pots.count h.words.width h.pots.width]
  rfl

/-- What holds of the closed-form frame holds of the bytes an EMIT of a legal state writes. -/
theorem exists_emitted_frame {Q : List Byte → Prop} (h : s.Legal)
    (hQ : Q (frameBytes s.par s.btnWords s.dataPots)) :
    ∃ (t : State) (f : List Byte), exec .emit s = .next t ∧
      t.record = s.record ++ f.map .sinkWrite ∧ Q f :=
  ⟨_, _, exec_emit_eq h, rfl, hQ⟩

/-- Settles O33, by the place of each kind of byte in the closed-form frame. -/
theorem frameByteMap : Obligations.FrameByteMap := by
  intro s hinv
  have h : s.Legal := inv_iff_legal.1 hinv
  have hw := h.words.count
  have hp := h.pots.count
  have hlast : s.par.frameLen - 1 = s.par.frameLen - 2 + 1 := by
    have := four_le_frameLen s.par
    omega
  refine exists_emitted_frame h ⟨length_frameBytes hw hp, rfl, rfl, fun j hj i hi => ?_,
    fun k hk i hi => ?_, ?_, ?_⟩
  · rw [Nat.add_assoc]
    exact getElem?_frameBytes_word hw hj hi
  · rw [Nat.add_assoc, Nat.add_assoc]
    exact getElem?_frameBytes_pot hw hp hk hi
  · rw [take_frameBytes hw hp]
    simpa using getElem?_frameBytes_checksum hw hp (i := 0) (by decide)
  · rw [take_frameBytes hw hp, hlast]
    exact getElem?_frameBytes_checksum hw hp (i := 1) (by decide)

/-! ### The bit of a button -/

/-- Bit `c mod 8` of byte `c div 8` of a value is its bit `c` (R31). -/
theorem getLsbD_ofNat_div_two_pow (v c : Nat) :
    (BitVec.ofNat 8 (v / 2 ^ (8 * (c / 8)))).getLsbD (c % 8) = v.testBit c := by
  have hbit : c % 8 < 8 := Nat.mod_lt _ (by decide)
  rw [BitVec.getLsbD_ofNat, Nat.testBit_div_two_pow, Nat.mod_add_div]
  simp [hbit]

/-- Settles O34: the bit is in the byte `c div 8` of its word, `c = i mod W`, and a word is whole
bytes, so `c mod 8 = i mod 8`. -/
theorem buttonBitInTheFrame : Obligations.ButtonBitInTheFrame := by
  intro s hinv
  have h : s.Legal := inv_iff_legal.1 hinv
  refine exists_emitted_frame h fun i hi => ?_
  have hW := h.params.word_pos
  have hbytes := h.params.word_bytes
  have hword : i / s.par.W < s.par.nw := div_lt_nw hW hi
  have hbyte : i % s.par.W / 8 < s.par.wb := by
    have := Nat.mod_lt i hW
    omega
  have hbit : i % s.par.W % 8 = i % 8 := Nat.mod_mod_of_dvd i ⟨_, hbytes.symm⟩
  refine ⟨_, getElem?_frameBytes_word h.words.count hword hbyte, ?_⟩
  rw [← hbit]
  exact getLsbD_ofNat_div_two_pow _ _

end Sys2Proof.Machine
end

section
/-! PROOFS. The command word (R45, R47 to R49): the fields of a word, the decoder on a word built from
its fields, and what the encoder keeps of a decoded word. -/

namespace Sys2Proof

/-! ### The fields of a word -/

@[simp] theorem toNat_wordOp (w : Nat) : (wordOp w).toNat = w % 2 ^ 3 := BitVec.toNat_ofNat w 3

@[simp] theorem toNat_wordIdx (w : Nat) : (wordIdx w).toNat = w / 2 ^ 3 % 2 ^ 9 :=
  BitVec.toNat_ofNat (w / 2 ^ 3) 9

/-- The operation code and the index are the low 12 bits (R45). -/
theorem opAndIdx_eq_mod (w : Nat) : w / 2 ^ 3 % 2 ^ 9 * 2 ^ 3 + w % 2 ^ 3 = w % 2 ^ 12 := by omega

/-- The three fields are all the wires of the port (R45). -/
theorem fields_eq_mod (c w : Nat) :
    wordData c w * 2 ^ 12 + w / 2 ^ 3 % 2 ^ 9 * 2 ^ 3 + w % 2 ^ 3 = w % 2 ^ (12 + c) := by
  rw [Nat.add_assoc, opAndIdx_eq_mod, Nat.pow_add, Nat.mod_mul, wordData]
  omega

/-- A word built from its fields has the data field it was built from (R45). -/
theorem wordData_of_fields {c v : Nat} (idx : Idx) (op : Opcode) (hv : v < 2 ^ c) :
    wordData c (v * 2 ^ 12 + idx.toNat * 2 ^ 3 + op.toNat) = v := by
  have hdata : (v * 2 ^ 12 + idx.toNat * 2 ^ 3 + op.toNat) / 2 ^ 12 = v := by
    have := idx.isLt
    have := op.isLt
    omega
  rw [wordData, hdata, Nat.mod_eq_of_lt hv]

/-- The decoder hands the port the fields the word was built from (R45). -/
theorem decodeWord_of_fields {c v : Nat} (idx : Idx) (op : Opcode) (hv : v < 2 ^ c) :
    decodeWord c (v * 2 ^ 12 + idx.toNat * 2 ^ 3 + op.toNat) = decodePort op idx v := by
  obtain ⟨hop, hidx⟩ := Laws.EncodedOpcode.of_fields v idx op
  have hwordOp : wordOp (v * 2 ^ 12 + idx.toNat * 2 ^ 3 + op.toNat) = op :=
    BitVec.eq_of_toNat_eq ((toNat_wordOp _).trans hop)
  have hwordIdx : wordIdx (v * 2 ^ 12 + idx.toNat * 2 ^ 3 + op.toNat) = idx :=
    BitVec.eq_of_toNat_eq ((toNat_wordIdx _).trans hidx)
  rw [decodeWord, hwordOp, hwordIdx, wordData_of_fields idx op hv]

/-! ### The fields of a command -/

/-- The data field of a well-formed command fits its wires (R45, R56). -/
theorem Instr.Wf.dataField_lt {c : Nat} {i : Instr} (h : i.Wf c) : i.dataField < 2 ^ c := by
  cases i with
  | wrcal e v => exact h
  | _ => exact Nat.two_pow_pos c

/-- The port selects a command by the fields its encoding has (R47, R56). -/
theorem decodePort_fields (i : Instr) : decodePort i.opcode i.idxField i.dataField = i := by
  cases i <;> rfl

/-- The word of a well-formed command fits the port (R45). -/
theorem encode_lt {c : Nat} {i : Instr} (h : i.Wf c) : encode i < 2 ^ (12 + c) := by
  have hdata := h.dataField_lt
  have hidx := i.idxField.isLt
  have hop := i.opcode.isLt
  rw [encode, Nat.pow_add]
  omega

theorem decodeWord_encode {c : Nat} {i : Instr} (h : i.Wf c) : decodeWord c (encode i) = i :=
  (decodeWord_of_fields i.idxField i.opcode h.dataField_lt).trans (decodePort_fields i)

/-- "all eight values of `cmd_op` are assigned" (R49). -/
theorem opcode_cases (op : Opcode) :
    op = 0b000#3 ∨ op = 0b001#3 ∨ op = 0b010#3 ∨ op = 0b011#3 ∨
      op = 0b100#3 ∨ op = 0b101#3 ∨ op = 0b110#3 ∨ op = 0b111#3 := by
  revert op
  decide

/-- The fields each format uses: the operation code alone (Z), with the index (I), with the index and
the data (IW); the others are encoded as zero (R47, R56). -/
theorem encode_decodePort (op : Opcode) (idx : Idx) (v : Nat) :
    encode (decodePort op idx v) =
      if op.toNat < 4 then op.toNat
      else if op.toNat < 7 then idx.toNat * 2 ^ 3 + op.toNat
      else v * 2 ^ 12 + idx.toNat * 2 ^ 3 + op.toNat := by
  obtain rfl | rfl | rfl | rfl | rfl | rfl | rfl | rfl := opcode_cases op <;>
    simp [decodePort, encode, Instr.opcode, Instr.idxField, Instr.dataField]

/-! ### The obligations -/

/-- Settles O3, through the fields of the command. -/
theorem decodeInvertsEncode : Obligations.DecodeInvertsEncode :=
  fun _ _ h => ⟨encode_lt h, decodeWord_encode h⟩

/-- Settles O1: the port's table of R47 at each of its eight codes. -/
theorem everyCodeDecodes : Obligations.EveryCodeDecodes := fun _ idx _ hv =>
  ⟨decodeWord_of_fields idx 0b000#3 hv, decodeWord_of_fields idx 0b001#3 hv,
    decodeWord_of_fields idx 0b010#3 hv, decodeWord_of_fields idx 0b011#3 hv,
    decodeWord_of_fields idx 0b100#3 hv, decodeWord_of_fields idx 0b101#3 hv,
    decodeWord_of_fields idx 0b110#3 hv, decodeWord_of_fields idx 0b111#3 hv⟩

/-- Settles O4: the fields a format uses are the low 3, 12 or `12 + c` bits of the word. -/
theorem encodeKeepsTheUsedFields : Obligations.EncodeKeepsTheUsedFields := by
  intro c w
  refine ⟨decodeWord_wf c w, ?_⟩
  rw [decodeWord, encode_decodePort, toNat_wordOp, toNat_wordIdx, fields_eq_mod, opAndIdx_eq_mod]

/-- Settles O2, word by word. -/
theorem programsOfTheSpecDecode : Obligations.ProgramsOfTheSpecDecode := by
  unfold Obligations.ProgramsOfTheSpecDecode
  decide

end Sys2Proof
end

section
/-! PROOFS. A receiver reassembles a field from its bytes, the low byte first (R31, R51). -/

namespace Sys2Proof.Machine

/-- The value of byte `t` of a field (R31, R51). -/
theorem toNat_getD_fieldBytes {n t : Nat} (v : Nat) (ht : t < n) :
    ((fieldBytes n v).getD t 0).toNat = v / 2 ^ (8 * t) % 2 ^ 8 := by
  rw [List.getD_eq_getElem?_getD, getElem?_fieldBytes v ht]
  exact BitVec.toNat_ofNat _ _

/-- The bytes at their weights sum to the low `8n` bits: one more byte adds its eight bits. -/
theorem sum_weighted_bytes (n v : Nat) :
    ((List.range n).map fun t => v / 2 ^ (8 * t) % 2 ^ 8 * 2 ^ (8 * t)).sum = v % 2 ^ (8 * n) := by
  induction n with
  | zero => simp [Nat.mod_one]
  | succ n ih =>
    rw [List.range_succ, List.map_append, List.sum_append, ih, List.map_singleton, List.sum_singleton,
      Nat.mul_succ, Nat.pow_add, Nat.mod_mul, Nat.mul_comm (2 ^ (8 * n))]

/-- Settles O38: a value below `2^(8n)` is its low `8n` bits. -/
theorem fieldReassembles : Obligations.FieldReassembles := by
  intro n v hv
  refine ⟨length_fieldBytes n v, ?_⟩
  calc ((List.range n).map fun t => ((fieldBytes n v).getD t 0).toNat * 2 ^ (8 * t)).sum
      = ((List.range n).map fun t => v / 2 ^ (8 * t) % 2 ^ 8 * 2 ^ (8 * t)).sum := by
        congr 1
        refine List.map_congr_left fun t ht => ?_
        rw [toNat_getD_fieldBytes v (List.mem_range.1 ht)]
    _ = v % 2 ^ (8 * n) := sum_weighted_bytes n v
    _ = v := Nat.mod_eq_of_lt hv

end Sys2Proof.Machine
end

section
/-! PROOFS. The unspecified response (R46; logs 5, 9): the last action of a command that returns
nothing draws a free value for `rsp_data`, and nothing before it takes back a drawn one. -/

namespace Sys2Proof.Machine

variable {s t : State}

/-! ### What a sample leaves: whatever its reads and register writes leave -/

theorem btnSample_leaves {α : Type} (r : State → α)
    (hread : ∀ id u, r (readDigital id u).2 = r u) (hset : ∀ j v u, r (State.setWord u j v) = r u)
    (s : State) : r (btnSample s) = r s := by
  have hbutton : ∀ i u, r (sampleButton i u) = r u := fun i u => by
    unfold sampleButton
    dsimp only
    split_ifs
    · exact (hset _ _ _).trans (hread _ u)
    · exact hread _ u
  exact (forUp_leaves r hbutton _ _).trans (forUp_leaves r (fun j u => hset j 0 u) _ s)

theorem potSample_leaves {α : Type} (r : State → α)
    (hread : ∀ id u, r (readAnalog id u).2 = r u) (hset : ∀ k v u, r (State.setPot u k v) = r u)
    (h : potSample s = .ok t) : r t = r s := by
  have hstore : ∀ k v u, r ((readAnalog (u.par.potPinAt k) u).2.setPot k v) = r u := fun k v u =>
    (hset k v _).trans (hread _ u)
  refine Eq.trans ?_ (forUp_leaves r (fun k u => hset k 0 u) _ s : r (potClear s) = r s)
  unfold potSample at h
  split_ifs at h
  · refine forUpFault_leaves r (fun k u v hv => ?_) h
    unfold sampleChannelRemapped at hv
    dsimp only at hv
    split at hv <;> cases hv
    exact hstore k _ u
  · refine forUpFault_leaves r (fun k u v hv => ?_) h
    cases hv
    exact hstore k _ u

/-! ### The count of free values -/

@[simp] theorem btnConfigure_draws (s : State) : (btnConfigure s).draws = s.draws := by
  rw [btnConfigure_eq]

@[simp] theorem potPins_draws (s : State) : (potPins s).draws = s.draws := by
  rw [potPins_eq]

@[simp] theorem calCorrect_draws (s : State) : (calCorrect s).draws = s.draws :=
  forUp_leaves State.draws (fun k u => by unfold calCorrectChannel; split_ifs <;> rfl) _ s

@[simp] theorem autocalReport_draws (s : State) : (autocalReport s).draws = s.draws := by
  rw [autocalReport_eq]

@[simp] theorem btnSample_draws (s : State) : (btnSample s).draws = s.draws :=
  btnSample_leaves State.draws (fun _ _ => rfl) (fun _ _ _ => rfl) s

theorem potSample_draws (h : potSample s = .ok t) : t.draws = s.draws :=
  potSample_leaves State.draws (fun _ _ => rfl) (fun _ _ _ => rfl) h

@[simp] theorem drainWord_draws (j : Nat) (s : State) : (drainWord j s).draws = s.draws :=
  forUp_leaves State.draws (fun _ _ => by rfl) _ s

@[simp] theorem drainPot_draws (k : Nat) (s : State) : (drainPot k s).draws = s.draws :=
  forUp_leaves State.draws (fun _ _ => by rfl) _ s

/-- EMIT draws one value, for `csum` (R16). -/
@[simp] theorem encodeFrame_draws (s : State) : (encodeFrame s).draws = s.draws + 1 := by
  rw [encodeFrame, releaseCsum_draws, putTrailer, sinkWrite_draws, sinkWrite_draws,
    forUp_leaves State.draws drainPot_draws, forUp_leaves State.draws drainWord_draws, putHeader,
    put_draws, put_draws]

@[simp] theorem writeCalOperand_draws (e : Idx) (v : Nat) (s : State) :
    (s.writeCalOperand e v).draws = s.draws := by
  rw [writeCalOperand_eq]
  split_ifs <;> rfl

/-! ### The response of a command that returns nothing -/

/-- CONFIGURE ends as every command that returns nothing does (R46, R111). -/
theorem finishConfigure_eq (s : State) :
    finishConfigure s = ({ s.setConfigured with phase := .idle } : State).noResponse := rfl

@[simp] theorem beginAutocal_phase (s : State) : (beginAutocal s).phase = .calibrating := rfl

/-- CONFIGURE, where it does not wait, ends by drawing its response (R111; log 5). -/
theorem execConfigure_ends_noResponse (h : execConfigure s = .next t) (hidle : t.phase = .idle) :
    ∃ u : State, s.draws ≤ u.draws ∧ t = u.noResponse := by
  obtain ⟨-, -, rfl⟩ | ⟨-, -, rfl⟩ | ⟨-, rfl⟩ := execConfigure_cases h
  · rw [beginAutocal_phase] at hidle
    cases hidle
  · exact ⟨_, by simp, finishConfigure_eq _⟩
  · exact ⟨_, by simp, finishConfigure_eq _⟩

/-- A command that returns nothing ends, when it completes, by drawing its response (R46; log 9). -/
theorem exec_ends_noResponse {i : Instr} (hi : returnsValue i = false) (h : exec i s = .next t)
    (hidle : i = .configure → t.phase = .idle) :
    ∃ u : State, s.draws ≤ u.draws ∧ t = u.noResponse := by
  cases i with
  | nop => cases h; exact ⟨s, le_rfl, rfl⟩
  | configure => exact execConfigure_ends_noResponse h (hidle rfl)
  | sample =>
    obtain ⟨-, rfl⟩ | ⟨-, u, hu, rfl⟩ := execSample_cases h
    · exact ⟨s, le_rfl, rfl⟩
    · exact ⟨u, by rw [potSample_draws hu, btnSample_draws], rfl⟩
  | emit => cases h; exact ⟨encodeFrame s, by simp, rfl⟩
  | rdword j => cases hi
  | rdpot k => cases hi
  | rdcal e => cases hi
  | wrcal e v =>
    obtain ⟨-, rfl⟩ | ⟨-, rfl⟩ := execWrcal_cases h
    · exact ⟨s.writeCalOperand e v, by simp, rfl⟩
    · exact ⟨s, le_rfl, rfl⟩

/-- Settles O19: the response is drawn last, from a count that has not gone back. -/
theorem unspecifiedResponseIsFree : Obligations.UnspecifiedResponseIsFree := by
  refine ⟨fun i s t hi h hidle => ?_, fun s hdone => ?_⟩
  · have hpar : t.par = s.par := exec_par h
    obtain ⟨u, hdraws, rfl⟩ := exec_ends_noResponse hi h hidle
    rw [noResponse_par] at hpar
    rw [noResponse_rspData, hpar]
    exact ⟨u.draws, hdraws, rfl, rfl, Nat.mod_lt _ (Nat.two_pow_pos _)⟩
  · rw [calibrationStep_eq, if_pos hdone, endAutocal, finishConfigure_eq]
    simp

end Sys2Proof.Machine
end

section
/-! PROOFS. The button words: a bit of a packed word is the state of one button (R70), a bit of a legal
word that holds no button is 0 (R11), and RDWORD returns the word (R68). -/

namespace Sys2Proof.Machine

variable {s : State} {p : Params}

/-! ### The packing law bit by bit -/

/-- After `n` buttons a bit of word `j` is the state of the button it stands for, if that one has been
read (R70). -/
theorem testBit_packedUpTo (v : Nat → Bool) (n j : Nat) {b : Nat} (hb : b < p.W) :
    (packedUpTo p v n j).testBit b =
      (decide (j * p.W + b < n) && active p.pol (v (j * p.W + b))) := by
  have hW : 0 < p.W := by omega
  induction n with
  | zero => simp [packedUpTo]
  | succ n ih =>
    rw [packedUpTo_succ]
    by_cases hset : n / p.W = j ∧ active p.pol (v n) = true
    · obtain ⟨rfl, hactive⟩ := hset
      rw [if_pos ⟨rfl, hactive⟩, ← packedUpTo_or p v n hW, Nat.testBit_or, ih, Nat.testBit_two_pow]
      have hn : n / p.W * p.W + n % p.W = n := Nat.div_add_mod' n p.W
      by_cases hbit : n % p.W = b
      · rw [← hbit, hn]
        simp [hactive]
      · have hother : n / p.W * p.W + b < n + 1 ↔ n / p.W * p.W + b < n := by omega
        simp [hbit, hother]
    · rw [if_neg hset, Nat.add_zero, ih]
      by_cases hbutton : j * p.W + b = n
      · have hword : n / p.W = j := Nat.div_eq_of_lt_le (by omega) (by rw [Nat.add_mul]; omega)
        have hinactive : active p.pol (v n) = false := Bool.eq_false_iff.2 fun h => hset ⟨hword, h⟩
        simp [hbutton, hinactive]
      · have hother : j * p.W + b < n + 1 ↔ j * p.W + b < n := by omega
        simp [hother]

/-- "Bit `i mod W` of word `i div W` equals the modeled boolean state of pin `i`" (R70). -/
theorem testBit_packedWord (hW : 0 < p.W) (v : Nat → Bool) {i : Nat} (hi : i < p.B) :
    (packedWord p v (i / p.W)).testBit (i % p.W) = active p.pol (v i) := by
  rw [packedWord_eq, testBit_packedUpTo v p.B _ (Nat.mod_lt i hW), Nat.div_add_mod' i p.W]
  simp [hi]

/-! ### RDWORD -/

/-- A bit beyond the last button is in the last word (R5, R11). -/
theorem eq_last_word {j b : Nat} (hj : j < p.nw) (hb : b < p.W) (hbeyond : p.B ≤ j * p.W + b) :
    j = p.nw - 1 := by
  by_contra hne
  have hwords : (j + 2) * p.W ≤ p.B + p.W - 1 := by
    rw [← Nat.le_div_iff_mul_le (by omega), ← Params.nw]
    omega
  rw [Nat.add_mul] at hwords
  omega

/-- A bit that holds no button reads 0: it is an unused bit of the last word, a bit beyond the
register's width, or in no word at all (R11, R68). -/
theorem State.Legal.testBit_readWordOperand (h : s.Legal) (j : Idx) {b : Nat}
    (hbeyond : s.par.B ≤ j.toNat * s.par.W + b) : (s.readWordOperand j).testBit b = false := by
  rw [readWordOperand_eq]
  split_ifs with hj
  · by_cases hb : b < s.par.W
    · have hlast := eq_last_word hj hb hbeyond
      rw [hlast] at hbeyond ⊢
      exact h.words.unused b hb hbeyond
    · exact Nat.testBit_lt_two_pow
        ((h.word_lt _).trans_le (Nat.pow_le_pow_right Nat.two_pos (Nat.le_of_not_lt hb)))
  · exact Nat.zero_testBit b

/-- Settles O20. -/
theorem rdwordReturnsTheWord : Obligations.RdwordReturnsTheWord := fun s j =>
  ⟨s.readWordOperand j, rfl, readWordOperand_eq s j, fun hinv _ hbeyond =>
    (inv_iff_legal.1 hinv).testBit_readWordOperand j hbeyond⟩

end Sys2Proof.Machine
end

section
/-! PROOFS. SAMPLE in closed form (R67, R83, R84, R112). It needs only the register counts and a table
without a degenerate pair, so it holds of any old contents of the banks. -/

namespace Sys2Proof.Machine

variable {s : State}

/-- Drawing the response writes only what is unspecified after a command that returns nothing (R46). -/
theorem noResponse_unanswered (s : State) : s.noResponse.Unanswered s := rfl

/-- With `cfg_done = 1` SAMPLE samples the buttons, then the channels (R112). -/
theorem execSample_of_configured {t : State} (hd : s.cfgDone = true)
    (ht : potSample (btnSample s) = .ok t) : execSample s = .next t.noResponse := by
  rw [execSample, State.sampleOpen, if_pos hd, ht]

/-- BTN.SAMPLE, then POT.SAMPLE: both banks rebuilt from one read of every input, in order. -/
theorem potSample_btnSample_eq (hw : s.par.Wf) (hwords : s.btnWords.length = s.par.nw)
    (hpots : s.dataPots.length = s.par.P)
    (hpairs : s.par.calEn = true → ∀ k < s.par.P, s.minOf k ≠ s.maxOf k) :
    potSample (btnSample s) = .ok (sampledState s) := by
  rw [btnSample_eq hw.word_pos hwords]
  refine Eq.trans (potSample_eq hw.resolution_lt hpots hpairs) ?_
  simp only [sampledState, sampleRecord, List.append_assoc]
  rfl

/-- SAMPLE in a legal state, whatever the banks hold: "the old contents do not influence the result"
(R67, R83). -/
theorem State.Legal.execSample_withBanks (h : s.Legal) (hd : s.cfgDone = true) {words pots : List Nat}
    (hwords : words.length = s.par.nw) (hpots : pots.length = s.par.P) :
    Machine.execSample { s with btnWords := words, dataPots := pots } =
      .next (sampledState s).noResponse := by
  have hpairs : s.par.calEn = true → ∀ k < s.par.P, s.minOf k ≠ s.maxOf k := fun hc k hk =>
    h.pairs hd k (by rwa [calCount_of_calEn hc])
  exact execSample_of_configured hd (potSample_btnSample_eq h.params hwords hpots hpairs)

/-- SAMPLE in a legal state (R112). -/
theorem State.Legal.exec_sample (h : s.Legal) (hd : s.cfgDone = true) :
    Machine.exec .sample s = .next (sampledState s).noResponse :=
  h.execSample_withBanks hd h.words.count h.pots.count

/-- A word of the sampled bank is what the packing law gives (R70). -/
theorem sampledState_word {j : Nat} (hj : j < s.par.nw) :
    (sampledState s).word j = packedWord s.par s.env.digitalAnswer j :=
  getD_map_range _ _ hj

/-- Settles O26. -/
theorem sampleRebuildsBothBanks : Obligations.SampleRebuildsBothBanks := fun _ hinv hd =>
  ⟨_, (inv_iff_legal.1 hinv).exec_sample hd, noResponse_unanswered _⟩

/-- Settles O27: the sum is the closed form of SAMPLE, its bits are those of `testBit_packedWord`. -/
theorem packingLaw : Obligations.PackingLaw := by
  intro s hinv hd
  have h : s.Legal := inv_iff_legal.1 hinv
  have hW := h.params.word_pos
  refine ⟨_, h.exec_sample hd, ?_, fun j hj => ?_, fun i hi => ?_⟩
  · exact (packedWords_legal hW _).count
  · rw [noResponse_reads_word, sampledState_word hj, packedWord]
  · rw [noResponse_reads_word, sampledState_word (div_lt_nw hW hi), testBit_packedWord hW _ hi]

/-- Settles O28: both runs end in the closed form, which names neither bank. -/
theorem sampleForgetsTheOldBanks : Obligations.SampleForgetsTheOldBanks := by
  intro s words pots hinv hd hwords hpots
  have h : s.Legal := inv_iff_legal.1 hinv
  exact ⟨_, h.exec_sample hd,
    h.execSample_withBanks hd (hwords.trans h.words.count) (hpots.trans h.pots.count)⟩

end Sys2Proof.Machine
end

section
/-! PROOFS. CONFIGURE on a block with a calibration table (R65, R75 to R79, R111): a table with some
entry not 0 is corrected, an all-zero one begins an auto-calibration. -/

namespace Sys2Proof.Machine

variable {s : State}

/-- CONFIGURE sets the pins of the buttons, then those of the channels (R65, R75, R111). -/
theorem configurePins_eq (s : State) :
    potPins (btnConfigure s) = { s with record := s.record ++ configureRecord s.par } := by
  rw [potPins_eq, btnConfigure_eq]
  simp only [configureRecord, List.append_assoc]

/-- A block with a table has a pair for every channel (R13). -/
theorem State.Legal.table_lengths (h : s.Legal) (ht : hasTable s.par = true) :
    s.calMin.length = s.par.P ∧ s.calMax.length = s.par.P := by
  rw [← calCount_of_hasTable ht]
  exact ⟨h.mins.count, h.maxs.count⟩

/-- What R75 asks of the table, entry by entry. -/
theorem State.Legal.tableAllZero_iff (h : s.Legal) (hc : s.par.calEn = true) :
    tableAllZero s = true ↔ ∀ k < s.par.P, s.minOf k = 0 ∧ s.maxOf k = 0 := by
  have entries {es : List Nat} (hes : EntriesLegal s.par es) :
      es.all (· == 0) = true ↔ ∀ k < s.par.P, es.getD k 0 = 0 := by
    rw [← calCount_of_calEn hc, ← hes.count, List.all_eq_true, List.forall_mem_iff_getElem]
    exact forall₂_congr fun k hk => by simp [hk]
  rw [tableAllZero, Bool.and_eq_true, entries h.mins, entries h.maxs]
  exact ⟨fun ⟨hmin, hmax⟩ k hk => ⟨hmin k hk, hmax k hk⟩,
    fun hzero => ⟨fun k hk => (hzero k hk).1, fun k hk => (hzero k hk).2⟩⟩

/-- CONFIGURE on a table that is not all zero (R75, R111). -/
theorem execConfigure_of_table (ht : hasTable s.par = true) (hz : tableAllZero s = false) :
    execConfigure s = .next (finishConfigure (calCorrect (potPins (btnConfigure s)))) := by
  simp [execConfigure, ht, hz]

/-- CONFIGURE on an all-zero table (R75). -/
theorem execConfigure_of_zeroTable (ht : hasTable s.par = true) (hz : tableAllZero s = true) :
    execConfigure s = .next (beginAutocal (potPins (btnConfigure s))) := by
  simp [execConfigure, ht, hz]

/-- The corrected table, its notices after the pins, and the end of CONFIGURE (R79, R111). -/
theorem State.Legal.finishConfigure_calCorrect_eq (h : s.Legal) (ht : hasTable s.par = true) :
    Machine.finishConfigure (Machine.calCorrect (potPins (btnConfigure s))) =
      (correctedState s).noResponse := by
  have hpins := h.configurePins
  obtain ⟨hmins, hmaxs⟩ := hpins.table_lengths (by simpa using ht)
  rw [calCorrect_eq hpins.params.maxRaw_lt hmins hmaxs, configurePins_eq]
  rfl

/-- The initial table and the prompt after the pins (R76, R77). -/
theorem State.Legal.beginAutocal_eq (h : s.Legal) (ht : hasTable s.par = true) :
    Machine.beginAutocal (potPins (btnConfigure s)) = calibratingState s := by
  obtain ⟨hmins, hmaxs⟩ := h.configurePins.table_lengths (by simpa using ht)
  rw [Machine.beginAutocal, autocalInit_eq hmins hmaxs, configurePins_eq]
  rfl

/-- Settles O41. -/
theorem configureCorrectsAGivenTable : Obligations.ConfigureCorrectsAGivenTable := by
  rintro s hinv - hc ⟨k, hk, hentry⟩
  have h : s.Legal := inv_iff_legal.1 hinv
  have htable : hasTable s.par = true := hasTable_iff.2 ⟨k.zero_le.trans_lt hk, hc⟩
  have hz : tableAllZero s = false := Bool.eq_false_iff.2 fun hz => by
    obtain ⟨hmin, hmax⟩ := (h.tableAllZero_iff hc).1 hz k hk
    exact hentry.elim (· hmin) (· hmax)
  refine ⟨_, execConfigure_of_table htable hz, ?_⟩
  rw [h.finishConfigure_calCorrect_eq htable]
  exact noResponse_unanswered _

/-- Settles O43. -/
theorem configureBeginsAutocalibration : Obligations.ConfigureBeginsAutocalibration := by
  intro s hinv _ hc hP hzero
  have h : s.Legal := inv_iff_legal.1 hinv
  have htable : hasTable s.par = true := hasTable_iff.2 ⟨hP, hc⟩
  exact (execConfigure_of_zeroTable htable ((h.tableAllZero_iff hc).2 hzero)).trans
    (congrArg _ (h.beginAutocal_eq htable))

end Sys2Proof.Machine
end

section
/-! PROOFS. The pair auto-calibration reaches (R78, R90) and the wait of a CONFIGURE that
auto-calibrates (R77, R141): one pass in closed form, then `n` passes. -/

namespace Sys2Proof.Machine

variable {s t : State}

/-! ### The pair after n samples -/

/-- CAL.UPDATE lowers the minimum to the sample (R78). -/
theorem calUpdatePair_fst (x mn mx : Nat) : (calUpdatePair x mn mx).1 = min mn x := by
  unfold calUpdatePair
  split_ifs <;> dsimp only <;> omega

/-- CAL.UPDATE raises the maximum only by a sample that is not below the minimum: "an if / else-if"
(R78, R90). -/
theorem calUpdatePair_snd (x mn mx : Nat) :
    (calUpdatePair x mn mx).2 = if mn ≤ x then max mx x else mx := by
  unfold calUpdatePair
  split_ifs <;> dsimp only <;> omega

theorem pairAfter_succ (start : Nat × Nat) (x : Nat → Nat) (n : Nat) :
    pairAfter start x (n + 1) =
      calUpdatePair (x n) (pairAfter start x n).1 (pairAfter start x n).2 := rfl

/-- The least of the starting minimum and the samples (R90). -/
theorem pairAfter_fst (start : Nat × Nat) (x : Nat → Nat) (n : Nat) :
    (pairAfter start x n).1 = ((List.range n).map x).foldl min start.1 := by
  induction n with
  | zero => rfl
  | succ n ih =>
    rw [pairAfter_succ, calUpdatePair_fst, ih, List.range_succ, List.map_append, List.foldl_append]
    rfl

/-- The greatest of the starting maximum and the samples not below the then-current minimum (R90). -/
theorem pairAfter_snd (start : Nat × Nat) (x : Nat → Nat) (n : Nat) :
    (pairAfter start x n).2 =
      (((List.range n).filter fun i => (pairAfter start x i).1 ≤ x i).map x).foldl max start.2 := by
  induction n with
  | zero => rfl
  | succ n ih =>
    rw [pairAfter_succ, calUpdatePair_snd, List.range_succ, List.filter_append, List.map_append,
      List.foldl_append, ← ih]
    by_cases hx : (pairAfter start x n).1 ≤ x n <;> simp [hx]

/-- Settles O47, from the pair `(U, 0)` of AUTOCAL.INIT. -/
theorem reachablePairs : Obligations.ReachablePairs := fun u x n =>
  ⟨pairAfter_fst (u, 0) x n, pairAfter_snd (u, 0) x n⟩

/-! ### The state after n sweeps -/

/-- The state of a waiting CONFIGURE after `n` polls without the done signal, each followed by one
sweep (R77, R78). -/
def sweptState (s : State) (n : Nat) : State :=
  { s with
    calMin := (List.range s.par.P).map fun k => (sweptPair s n k).1
    calMax := (List.range s.par.P).map fun k => (sweptPair s n k).2
    env := (s.env.afterPolls n).afterAnalog (n * s.par.P)
    record := s.record ++ (List.range n).flatMap (sweepRecord s.par s.env) }

theorem sweptPair_zero (s : State) (k : Nat) : sweptPair s 0 k = (s.minOf k, s.maxOf k) := rfl

theorem sweptPair_succ (s : State) (n k : Nat) :
    sweptPair s (n + 1) k =
      calUpdatePair (sweepSample s.par s.env k n) (sweptPair s n k).1 (sweptPair s n k).2 := rfl

/-- The pair of channel `k` in the swept table. -/
theorem sweptState_pair (n : Nat) {k : Nat} (hk : k < s.par.P) :
    ((sweptState s n).minOf k, (sweptState s n).maxOf k) = sweptPair s n k :=
  Prod.ext (getD_map_range _ _ hk) (getD_map_range _ _ hk)

/-- After `n` sweeps the next poll is poll `n` (R125). -/
theorem sweptState_doneAnswer (n i : Nat) :
    (sweptState s n).env.doneAnswer i = s.env.doneAnswer (n + i) :=
  doneAnswer_afterPolls s.env n i

/-- After `n` sweeps the next sweep is sweep `n` (R77). -/
theorem sweepSample_sweptState (n k u : Nat) :
    sweepSample s.par (sweptState s n).env k u = sweepSample s.par s.env k (n + u) := by
  rw [sweepSample, sweptState, analogAnswer_afterAnalog, analogAnswer_afterPolls, sweepSample]
  congr 1
  rw [Nat.add_mul, Nat.add_assoc]

theorem sweepRecord_sweptState (n u : Nat) :
    sweepRecord s.par (sweptState s n).env u = sweepRecord s.par s.env (n + u) := by
  simp only [sweepRecord, sweepSample_sweptState]

/-- One more sweep updates every pair with its sample (R78). -/
theorem sweptPair_sweptState_one (n : Nat) {k : Nat} (hk : k < s.par.P) :
    sweptPair (sweptState s n) 1 k = sweptPair s (n + 1) k := by
  rw [sweptPair_succ, sweptPair_zero, sweptState_pair n hk, sweptPair_succ]
  exact congrArg (calUpdatePair · _ _) (sweepSample_sweptState n k 0)

/-- Sweeping a swept state once is one sweep more. -/
theorem sweptState_sweptState_one (s : State) (n : Nat) :
    sweptState (sweptState s n) 1 = sweptState s (n + 1) := by
  have pairs (g : Nat × Nat → Nat) :
      (List.range s.par.P).map (fun k => g (sweptPair (sweptState s n) 1 k)) =
        (List.range s.par.P).map fun k => g (sweptPair s (n + 1) k) :=
    List.map_congr_left fun k hk => congrArg g (sweptPair_sweptState_one n (List.mem_range.1 hk))
  have env : (((s.env.afterPolls n).afterAnalog (n * s.par.P)).afterPolls 1).afterAnalog (1 * s.par.P) =
      (s.env.afterPolls (n + 1)).afterAnalog ((n + 1) * s.par.P) := by
    rw [afterAnalog_afterPolls, afterPolls_afterPolls, afterAnalog_afterAnalog, Nat.add_mul]
  have record : s.record ++ (List.range n).flatMap (sweepRecord s.par s.env) ++
        (List.range 1).flatMap (sweepRecord s.par (sweptState s n).env) =
      s.record ++ (List.range (n + 1)).flatMap (sweepRecord s.par s.env) := by
    rw [List.append_assoc, List.range_one, List.range_succ, List.flatMap_append,
      List.flatMap_singleton, List.flatMap_singleton, sweepRecord_sweptState, Nat.add_zero]
  exact State.ext rfl rfl rfl (pairs Prod.fst) (pairs Prod.snd) rfl rfl rfl rfl rfl env rfl record

/-- No sweep leaves a legal waiting state as it is. -/
theorem State.Legal.sweptState_zero (h : s.Legal) (ht : hasTable s.par = true) :
    sweptState s 0 = s := by
  obtain ⟨hmins, hmaxs⟩ := h.table_lengths ht
  have mins : (List.range s.par.P).map (fun k => (sweptPair s 0 k).1) = s.calMin :=
    map_range_getD s.calMin 0 hmins
  have maxs : (List.range s.par.P).map (fun k => (sweptPair s 0 k).2) = s.calMax :=
    map_range_getD s.calMax 0 hmaxs
  simp [sweptState, mins, maxs]

/-! ### One pass of the wait -/

/-- The first sweep, written out (R77, R78). -/
theorem sweptState_one (s : State) :
    sweptState s 1 = { s with
      calMin := (List.range s.par.P).map fun k =>
        (calUpdatePair (s.env.analogAnswer s.par.C k) (s.minOf k) (s.maxOf k)).1
      calMax := (List.range s.par.P).map fun k =>
        (calUpdatePair (s.env.analogAnswer s.par.C k) (s.minOf k) (s.maxOf k)).2
      env := (s.env.afterPolls 1).afterAnalog s.par.P
      record := s.record ++ .diagInAvail false :: (List.range s.par.P).map fun k =>
        .readAnalog (s.par.potPinAt k) (s.env.analogAnswer s.par.C k) } := by
  simp only [sweptState, sweptPair_succ, sweptPair_zero, sweepRecord, sweepSample, List.range_one,
    List.flatMap_singleton, Nat.zero_mul, Nat.zero_add, Nat.one_mul]

/-- A pass that finds no done signal is one sweep (R77, R145). -/
theorem State.Legal.step_sweeps (h : s.Legal) (hp : s.phase = .calibrating) (hh : s.HostWaits)
    (hdone : s.env.doneAnswer 0 = false) : step s = .next (sweptState s 1) := by
  obtain ⟨hmins, hmaxs⟩ := h.diagInAvail.table_lengths (h.waits hp).1
  rw [step_wait h.params hp hh, calibrationStep_eq, hdone, if_neg Bool.false_ne_true,
    sweep_eq hmins hmaxs, sweptState_one]
  simp [hdone, analogAnswer_afterPolls]

/-- Settles O44. -/
theorem waitingStepSweepsOnce : Obligations.WaitingStepSweepsOnce := by
  intro s hinv hp hh hdone
  rw [(inv_iff_legal.1 hinv).step_sweeps hp hh hdone, sweptState_one]

/-- The notices depend on the pairs of the channels only. -/
theorem correctRecord_congr {p : Params} {f g : Nat → Nat × Nat} (hfg : ∀ k < p.P, f k = g k) :
    correctRecord p f = correctRecord p g :=
  congrArg (List.map _) (List.filter_congr fun k hk => by rw [hfg k (List.mem_range.1 hk)])

/-- The report depends on the pairs of the channels only. -/
theorem reportRecord_congr {p : Params} {f g : Nat → Nat × Nat} (hfg : ∀ k < p.P, f k = g k) :
    reportRecord p f = reportRecord p g :=
  List.map_congr_left fun k hk => by rw [hfg k (List.mem_range.1 hk)]

/-- CAL.CORRECT, AUTOCAL.REPORT and the end of CONFIGURE, in closed form (R75, R79, R80). -/
theorem State.Legal.endAutocal_eq (h : s.Legal) (ht : hasTable s.par = true) :
    Machine.endAutocal s =
      State.noResponse { s with
        calMin := (List.range s.par.P).map fun k => (correctedPair s.par (s.minOf k, s.maxOf k)).1
        calMax := (List.range s.par.P).map fun k => (correctedPair s.par (s.minOf k, s.maxOf k)).2
        cfgDone := true
        phase := .idle
        record := s.record ++ correctRecord s.par (fun k => (s.minOf k, s.maxOf k)) ++
          reportRecord s.par fun k => correctedPair s.par (s.minOf k, s.maxOf k) } := by
  obtain ⟨hmins, hmaxs⟩ := h.table_lengths ht
  rw [Machine.endAutocal, autocalReport_eq, calCorrect_eq h.params.maxRaw_lt hmins hmaxs]
  rw [reportRecord_congr (g := fun k => correctedPair s.par (s.minOf k, s.maxOf k))
    fun k hk => Prod.ext (getD_map_range _ 0 hk) (getD_map_range _ 0 hk)]
  rfl

/-- A pass that finds the done signal ends CONFIGURE (R77, R79, R80, R111). -/
theorem State.Legal.step_ends (h : s.Legal) (hp : s.phase = .calibrating) (hh : s.HostWaits)
    (hdone : s.env.doneAnswer 0 = true) : step s = .next (calibratedState s 0).noResponse := by
  have hpoll : (Machine.diagInAvail s).2.record = s.record ++ [.diagInAvail true] := by
    rw [diagInAvail_record, hdone]
  rw [step_wait h.params hp hh, calibrationStep_eq, if_pos hdone,
    h.diagInAvail.endAutocal_eq (h.waits hp).1, hpoll, calibratedState, Nat.zero_mul, afterAnalog_zero,
    List.range_zero, List.flatMap_nil, List.append_nil]
  rfl

/-! ### The whole wait -/

/-- A run begins with its first step. -/
theorem run_of_step {u : State} (hs : step s = .next u) (n : Nat) :
    Sys2Proof.core.run (n + 1) s = Sys2Proof.core.run n u := by
  have hcore : Sys2Proof.core.step s = .next u := hs
  simp only [Host.Core.run, hcore]

/-- A run of one step is that step. -/
theorem run_one (s : State) : Sys2Proof.core.run 1 s = step s := by
  have hcore : Sys2Proof.core.step s = step s := rfl
  simp only [Host.Core.run, hcore]
  cases step s <;> rfl

/-- A run that reaches a state has made its first step. -/
theorem step_of_run {n : Nat} (h : Sys2Proof.core.run (n + 1) s = .next t) :
    ∃ u, step s = .next u ∧ Sys2Proof.core.run n u = .next t := by
  have hcore : Sys2Proof.core.step s = step s := rfl
  simp only [Host.Core.run, hcore] at h
  cases hs : step s with
  | next u => rw [hs] at h; exact ⟨u, rfl, h⟩
  | fault e => rw [hs] at h; cases h
  | refused r => rw [hs] at h; cases h

/-- A run of one step more ends with that step. -/
theorem run_succ {n : Nat} (h : Sys2Proof.core.run n s = .next t) :
    Sys2Proof.core.run (n + 1) s = step t := by
  induction n generalizing s with
  | zero => cases h; exact run_one t
  | succ n ih =>
    obtain ⟨u, hs, hu⟩ := step_of_run h
    rw [run_of_step hs, ih hu]

/-- As long as the done signal is absent every step is one sweep, and the block goes on waiting
(R77, R141). -/
theorem State.Legal.run_sweeps (h : s.Legal) (hp : s.phase = .calibrating) (hh : s.HostWaits) {n : Nat}
    (hdone : ∀ i < n, s.env.doneAnswer i = false) :
    Sys2Proof.core.run n s = .next (sweptState s n) ∧ (sweptState s n).Legal := by
  induction n with
  | zero =>
    rw [h.sweptState_zero (h.waits hp).1]
    exact ⟨rfl, h⟩
  | succ n ih =>
    obtain ⟨hrun, hlegal⟩ := ih fun i hi => hdone i (Nat.lt_succ_of_lt hi)
    have hstep : step (sweptState s n) = .next (sweptState s (n + 1)) := by
      rw [← sweptState_sweptState_one]
      exact hlegal.step_sweeps hp hh ((sweptState_doneAnswer n 0).trans (hdone n n.lt_succ_self))
    exact ⟨(run_succ hrun).trans hstep,
      inv_iff_legal.1 (everyStepKeepsTheInvariant _ _ (inv_iff_legal.2 hlegal) hstep)⟩

/-- The end of CONFIGURE after `n` sweeps, seen from the beginning of the wait. -/
theorem calibratedState_sweptState (s : State) (n : Nat) :
    calibratedState (sweptState s n) 0 = calibratedState s n := by
  have pairs : ∀ k < s.par.P, sweptPair (sweptState s n) 0 k = sweptPair s n k :=
    fun _ hk => sweptState_pair n hk
  have table (g : Nat × Nat → Nat) :
      (List.range s.par.P).map (fun k => g (correctedPair s.par (sweptPair (sweptState s n) 0 k))) =
        (List.range s.par.P).map fun k => g (correctedPair s.par (sweptPair s n k)) :=
    List.map_congr_left fun k hk => by rw [pairs k (List.mem_range.1 hk)]
  have env : (((s.env.afterPolls n).afterAnalog (n * s.par.P)).afterPolls 1).afterAnalog (0 * s.par.P) =
      (s.env.afterPolls (n + 1)).afterAnalog (n * s.par.P) := by
    rw [Nat.zero_mul, afterAnalog_zero, afterAnalog_afterPolls, afterPolls_afterPolls]
  have record : (calibratedState (sweptState s n) 0).record = (calibratedState s n).record := by
    have report := reportRecord_congr fun k hk => congrArg (correctedPair s.par) (pairs k hk)
    simp only [calibratedState, sweptState, List.range_zero, List.flatMap_nil, List.append_nil]
    rw [← correctRecord_congr pairs, ← report]
    rfl
  exact State.ext rfl rfl rfl (table Prod.fst) (table Prod.snd) rfl rfl rfl rfl rfl env rfl record

/-- Settles O45: `n` sweeps, then the pass that finds the done signal. -/
theorem autocalibrationRun : Obligations.AutocalibrationRun := by
  intro s n hinv hp hh hdone hend
  obtain ⟨hrun, hlegal⟩ := (inv_iff_legal.1 hinv).run_sweeps hp hh hdone
  have hstep : step (sweptState s n) = .next (calibratedState s n).noResponse := by
    rw [← calibratedState_sweptState]
    exact hlegal.step_ends hp hh ((sweptState_doneAnswer n 0).trans hend)
  exact ⟨_, (run_succ hrun).trans hstep, noResponse_unanswered _⟩

/-- Settles O46: a sweep changes neither the phase nor `cfg_done` nor the host's stream. -/
theorem calibrationWaitsWithoutTimeout : Obligations.CalibrationWaitsWithoutTimeout := by
  intro s n hinv hp hh hdone
  have h : s.Legal := inv_iff_legal.1 hinv
  exact ⟨_, (h.run_sweeps hp hh hdone).1, hp, (h.waits hp).2, rfl⟩

end Sys2Proof.Machine
end

section
/-! PROOFS. The accessors RDPOT, RDCAL and WRCAL (R85 to R87): the value each returns, the entry WRCAL
writes, and what RDCAL reads after a write. -/

namespace Sys2Proof.Machine

variable {s : State}

theorem exec_rdpot (k : Idx) (s : State) : exec (.rdpot k) s = .next (s.respond (s.readPotOperand k)) := rfl

theorem exec_rdcal (e : Idx) (s : State) : exec (.rdcal e) s = .next (s.respond (s.readCalOperand e)) := rfl

/-- WRCAL before CONFIGURE (R87). -/
theorem exec_wrcal_of_open (hopen : s.cfgDone = false) (e : Idx) (v : Nat) :
    exec (.wrcal e v) s = .next (s.writeCalOperand e v).noResponse := by
  simp [exec, execWrcal, State.tableOpen, hopen]

/-- WRCAL once `cfg_done = 1` (R87). -/
theorem exec_wrcal_of_locked (hd : s.cfgDone = true) (e : Idx) (v : Nat) :
    exec (.wrcal e v) s = .next s.noResponse := by
  simp [exec, execWrcal, State.tableOpen, hd]

/-- Settles O21. -/
theorem rdpotReturnsTheValue : Obligations.RdpotReturnsTheValue := fun s k => by
  rw [exec_rdpot, readPotOperand_eq]
  rfl

/-- Settles O22. -/
theorem rdcalReturnsTheEntry : Obligations.RdcalReturnsTheEntry := fun s e => by
  rw [exec_rdcal, readCalOperand_eq]
  rfl

/-- A value that fits an entry is written as it is (R13, R87). -/
theorem writeCalOperand_of_lt {v : Nat} (hv : v < 2 ^ s.par.C) (e : Idx) :
    s.writeCalOperand e v =
      if s.par.calEn = true ∧ e.toNat < 2 * s.par.P then
        if e.toNat % 2 = 0 then { s with calMin := s.calMin.set (e.toNat / 2) v }
        else { s with calMax := s.calMax.set (e.toNat / 2) v }
      else s := by
  rw [writeCalOperand_eq, State.setCalMin, State.setCalMax, Nat.mod_eq_of_lt hv]

/-- Settles O23, by the gate of R87. -/
theorem wrcalWritesTheEntry : Obligations.WrcalWritesTheEntry := by
  intro s e v hv
  by_cases hopen : s.cfgDone = false
  · refine ⟨_, exec_wrcal_of_open hopen e v, ?_⟩
    simp only [and_iff_right hopen]
    rw [← writeCalOperand_of_lt hv]
    exact noResponse_unanswered _
  · refine ⟨_, exec_wrcal_of_locked (Bool.eq_true_of_not_eq_false hopen) e v, ?_⟩
    rw [if_neg fun hwrite => hopen hwrite.1]
    exact noResponse_unanswered s

/-- Two entry indexes are the same when they select the same half of the same pair (R39). -/
theorem idx_eq_iff_entry (e f : Idx) :
    f = e ↔ f.toNat % 2 = e.toNat % 2 ∧ f.toNat / 2 = e.toNat / 2 := by
  rw [← BitVec.toNat_inj]
  omega

/-- What RDCAL reads after a write of entry `e`: the value at `e`, every other entry as before (R39,
R86, R87). -/
theorem State.Legal.readCalOperand_writeCalOperand (h : s.Legal) (hc : s.par.calEn = true) {e : Idx}
    (he : e.toNat < 2 * s.par.P) {v : Nat} (hv : v < 2 ^ s.par.C) (f : Idx) :
    (s.writeCalOperand e v).readCalOperand f = if f = e then v else s.readCalOperand f := by
  have hcount := calCount_of_calEn hc
  have hmin : e.toNat / 2 < s.calMin.length := by rw [h.mins.count]; omega
  have hmax : e.toNat / 2 < s.calMax.length := by rw [h.maxs.count]; omega
  rcases Nat.mod_two_eq_zero_or_one e.toNat with heven | hodd
  · have hwrite : s.writeCalOperand e v = s.setCalMin (e.toNat / 2) v := by
      rw [writeCalOperand_eq, if_pos ⟨hc, he⟩, if_pos heven]
    simp only [hwrite, readCalOperand_eq, idx_eq_iff_entry, hc, true_and, setCalMin_par,
      setCalMin_minOf _ _ hmin, setCalMin_reads_maxOf, Nat.mod_eq_of_lt hv]
    split_ifs <;> omega
  · have hwrite : s.writeCalOperand e v = s.setCalMax (e.toNat / 2) v := by
      rw [writeCalOperand_eq, if_pos ⟨hc, he⟩, if_neg (by omega)]
    simp only [hwrite, readCalOperand_eq, idx_eq_iff_entry, hc, true_and, setCalMax_par,
      setCalMax_maxOf _ _ hmax, setCalMax_reads_minOf, Nat.mod_eq_of_lt hv]
    split_ifs <;> omega

/-- Settles O24. -/
theorem writtenEntryReadsBack : Obligations.WrittenEntryReadsBack := by
  intro s e f v hinv hopen hc he hv
  exact ⟨_, _, exec_wrcal_of_open hopen e v, exec_rdcal f _,
    (inv_iff_legal.1 hinv).readCalOperand_writeCalOperand hc he hv f⟩

end Sys2Proof.Machine
end

section
/-! PROOFS. The remapper (R81, R82, R89): the closed form is monotonic and meets both boundaries, and
the saturation outside the range follows from these. -/

namespace Sys2Proof.Machine

variable {r raw raw1 raw2 mn mx : Nat}

/-! ### The formula -/

/-- The clamp to `[0, R]` keeps the order (R81). -/
theorem remapFormula_le_remapFormula
    (h : (((raw1 : Rat) - mn) * r) / ((mx : Rat) - mn) ≤ (((raw2 : Rat) - mn) * r) / ((mx : Rat) - mn)) :
    remapFormula r raw1 mn mx ≤ remapFormula r raw2 mn mx :=
  Int.toNat_le_toNat (max_le_max le_rfl (min_le_min le_rfl (Int.floor_mono h)))

theorem numerator_le_numerator (r mn : Nat) (h : raw1 ≤ raw2) :
    ((raw1 : Rat) - mn) * r ≤ ((raw2 : Rat) - mn) * r := by
  gcongr

/-- Monotonic when `mn < mx` (R89). -/
theorem remapFormula_mono (hmn : mn < mx) (h : raw1 ≤ raw2) :
    remapFormula r raw1 mn mx ≤ remapFormula r raw2 mn mx := by
  have hrange : (0 : Rat) ≤ (mx : Rat) - mn := sub_nonneg.2 (Nat.cast_le.2 hmn.le)
  exact remapFormula_le_remapFormula
    (div_le_div_of_nonneg_right (numerator_le_numerator r mn h) hrange)

/-- Non-increasing when `mn > mx` (R89). -/
theorem remapFormula_anti (hmx : mx < mn) (h : raw1 ≤ raw2) :
    remapFormula r raw2 mn mx ≤ remapFormula r raw1 mn mx := by
  have hrange : (mx : Rat) - mn ≤ 0 := sub_nonpos.2 (Nat.cast_le.2 hmx.le)
  exact remapFormula_le_remapFormula
    (div_le_div_of_nonpos_of_le hrange (numerator_le_numerator r mn h))

/-- `remap(mn) = 0` (R89). -/
theorem remapFormula_min (r mn mx : Nat) : remapFormula r mn mn mx = 0 := by
  simp [remapFormula]

/-- `remap(mx) = R` (R89). -/
theorem remapFormula_max (hne : mn ≠ mx) : remapFormula r mx mn mx = r := by
  have hrange : (mx : Rat) - mn ≠ 0 := sub_ne_zero.2 (Nat.cast_injective.ne hne.symm)
  rw [remapFormula, mul_div_cancel_left₀ _ hrange, Int.floor_natCast]
  simp

/-- Inside the range the formula is the floor of a quotient of natural numbers, and neither clamp acts
(R82 (v)). -/
theorem remapFormula_inside (hmn : mn < mx) (hlo : mn ≤ raw) (hhi : raw ≤ mx) :
    remapFormula r raw mn mx = (raw - mn) * r / (mx - mn) ∧ (raw - mn) * r / (mx - mn) ≤ r := by
  have hle : (raw - mn) * r / (mx - mn) ≤ r :=
    Nat.div_le_of_le_mul (Nat.mul_le_mul_right r (Nat.sub_le_sub_right hhi mn))
  have hfloor : ⌊(((raw : Rat) - mn) * r) / ((mx : Rat) - mn)⌋ =
      (((raw - mn) * r / (mx - mn) : Nat) : Int) := by
    rw [← Nat.cast_sub hlo, ← Nat.cast_sub hmn.le, ← Nat.cast_mul]
    exact Rat.floor_natCast_div_natCast _ _
  rw [remapFormula, hfloor, min_eq_right (Int.ofNat_le.2 hle), max_eq_right (Int.natCast_nonneg _),
    Int.toNat_natCast]
  exact ⟨rfl, hle⟩

/-! ### The remapper -/

/-- Settles O30. -/
theorem remapIsMonotonic : Obligations.RemapIsMonotonic := by
  intro r mn mx raw1 raw2 hne hraw
  refine ⟨_, _, remap_eq hne, remap_eq hne, (remapFormula_mono · hraw), (remapFormula_anti · hraw), ?_, ?_⟩
  · rw [remap_eq hne, remapFormula_min]
  · rw [remap_eq hne, remapFormula_max hne]

/-- Settles O31: above and below the range by monotonicity from the two boundaries. -/
theorem remapSaturates : Obligations.RemapSaturates := by
  intro r mn mx raw
  refine ⟨fun hmn hlo hhi => ?_, fun hmn hhi => ?_, fun hmn hlo => ?_, fun heq => ?_⟩
  · obtain ⟨hvalue, hle⟩ := remapFormula_inside (r := r) hmn hlo hhi
    exact ⟨(remap_eq hmn.ne).trans (congrArg some hvalue), hle⟩
  · have htop : r ≤ remapFormula r raw mn mx := calc
      r = remapFormula r mx mn mx := (remapFormula_max hmn.ne).symm
      _ ≤ remapFormula r raw mn mx := remapFormula_mono hmn hhi.le
    rw [remap_eq hmn.ne, le_antisymm (remapFormula_le r raw mn mx) htop]
  · have hbottom : remapFormula r raw mn mx ≤ 0 := calc
      remapFormula r raw mn mx ≤ remapFormula r mn mn mx := remapFormula_mono hmn hlo.le
      _ = 0 := remapFormula_min r mn mx
    rw [remap_eq hmn.ne, Nat.le_zero.1 hbottom]
  · rw [heq]
    exact remap_degenerate r raw mx

end Sys2Proof.Machine
end

section
/-! PROOFS. A configured block: SAMPLE stops at a degenerate pair, which no legal state has (R14,
R82 (iv)), and a repeated CONFIGURE only sets the pins (R91, R111). -/

namespace Sys2Proof.Machine

variable {s : State}

/-- With `cfg_done = 1` SAMPLE stops where POT.SAMPLE does (R82 (iv), R112). -/
theorem execSample_of_fault {e : Fault} (hd : s.cfgDone = true)
    (he : potSample (btnSample s) = .error e) : execSample s = .fault e := by
  rw [execSample, State.sampleOpen, if_pos hd, he]

/-- BTN.SAMPLE leaves every pair of the table (R67). -/
theorem btnSample_reads_pair (s : State) (k : Nat) :
    (btnSample s).minOf k = s.minOf k ∧ (btnSample s).maxOf k = s.maxOf k := by
  obtain ⟨hmin, hmax, -⟩ := calibration_eq_iff.1 (btnSample_calibration s)
  exact ⟨congrArg (·.getD k 0) hmin, congrArg (·.getD k 0) hmax⟩

/-- Settles O29: the buttons are sampled, and then channel `k` is the first that cannot be remapped. -/
theorem degeneratePairFaults : Obligations.DegeneratePairFaults := by
  intro s k hd hc hk hbefore hdegenerate
  refine ⟨execSample_of_fault hd ?_, fun hinv => ?_⟩
  · have hpar := btnSample_par s
    refine potSample_degenerate (hpar ▸ hc) (hpar ▸ hk) (fun i hi => ?_) ?_
    · obtain ⟨hmin, hmax⟩ := btnSample_reads_pair s i
      rw [hmin, hmax]
      exact hbefore i hi
    · obtain ⟨hmin, hmax⟩ := btnSample_reads_pair s k
      rw [hmin, hmax]
      exact hdegenerate
  · exact (inv_iff_legal.1 hinv).pairs hd k (calCount_of_calEn hc ▸ hk) hdegenerate

/-- CONFIGURE on a block without a table (R75, R88). -/
theorem execConfigure_of_noTable (ht : hasTable s.par = false) :
    execConfigure s = .next (finishConfigure (potPins (btnConfigure s))) := by
  simp [execConfigure, ht]

/-- A settled table gives CAL.CORRECT nothing to do, so a repeated CONFIGURE is the pins and the end of
CONFIGURE (R91, R111). -/
theorem State.Legal.execConfigure_of_configured (h : s.Legal) (hd : s.cfgDone = true) :
    Machine.execConfigure s = .next (Machine.finishConfigure (potPins (btnConfigure s))) := by
  cases ht : hasTable s.par with
  | false => exact execConfigure_of_noTable ht
  | true =>
    have hpairs : ∀ k < s.par.P, s.minOf k ≠ s.maxOf k := calCount_of_hasTable ht ▸ h.pairs hd
    have hcorrect : Machine.calCorrect (potPins (btnConfigure s)) = potPins (btnConfigure s) := by
      rw [configurePins_eq]
      exact calCorrect_of_nondegenerate hpairs
    rw [execConfigure_of_table ht (h.tableAllZero_eq_false hd ht), hcorrect]

/-- A configured block does not wait (R75, R111). -/
theorem State.Legal.idle_of_configured (h : s.Legal) (hd : s.cfgDone = true) : s.phase = .idle := by
  cases hp : s.phase with
  | idle => rfl
  | calibrating => exact nomatch (h.waits hp).2.symm.trans hd

/-- The end of CONFIGURE on a configured, idle block only draws the response (R15, R46). -/
theorem finishConfigure_of_configured (hd : s.cfgDone = true) (hp : s.phase = .idle) :
    finishConfigure s = s.noResponse := by
  have hset : ({ s.setConfigured with phase := .idle } : State) = s := by
    rw [← hp, State.setConfigured, ← hd]
  rw [finishConfigure_eq, hset]

/-- Settles O48. -/
theorem repeatedConfigureOnlySetsPins : Obligations.RepeatedConfigureOnlySetsPins := by
  intro s hinv hd
  have h : s.Legal := inv_iff_legal.1 hinv
  refine ⟨_, h.execConfigure_of_configured hd, ?_⟩
  have hend := finishConfigure_of_configured (s := { s with record := s.record ++ configureRecord s.par })
    hd (h.idle_of_configured hd)
  rw [configurePins_eq, hend]
  exact noResponse_unanswered _

end Sys2Proof.Machine
end

section
/-! PROOFS. The checksum of a frame (R99, R103 to R105): bytes with a checksum behind them verify
exactly when it is the checksum of those bytes. -/

namespace Sys2Proof.Machine

variable {s : State} {p : Params} {words pots : List Nat} {bs : List Byte}

/-! ### The sum of bytes and its checksum -/

/-- Replacing a byte moves the sum by the difference of the two. -/
theorem byteSum_set {n : Nat} (hn : n < bs.length) (b : Byte) :
    byteSum (bs.set n b) + bs[n].toNat = byteSum bs + b.toNat := by
  induction bs generalizing n with
  | nil => simp at hn
  | cons a bs ih =>
    cases n with
    | zero =>
      simp only [List.set_cons_zero, List.getElem_cons_zero, byteSum_cons]
      omega
    | succ n =>
      have htail := ih (Nat.lt_of_succ_lt_succ hn)
      simp only [List.set_cons_succ, List.getElem_cons_succ, byteSum_cons]
      omega

theorem byteSum_le (bs : List Byte) : byteSum bs ≤ 255 * bs.length := by
  induction bs with
  | nil => exact Nat.le_refl _
  | cons b bs ih =>
    have hb := b.isLt
    rw [byteSum_cons, List.length_cons]
    omega

/-- The checksum as a number: `(0xFFFF - S) mod 2^16` (R99). -/
theorem toNat_checksumOf (bs : List Byte) :
    ((checksumOf bs).toNat : Int) = (0xFFFF - byteSum bs) % 2 ^ 16 := by
  rw [checksumOf, BitVec.toNat_sub, BitVec.toNat_ofNat, csumInit, BitVec.toNat_ofNat]
  omega

/-- While the sum fits 16 bits the accumulator does not wrap (R104). -/
theorem toNat_checksumOf_of_le (h : byteSum bs ≤ 65535) :
    (checksumOf bs).toNat = 65535 - byteSum bs := by
  have hmod := toNat_checksumOf bs
  omega

/-- A checksum and the sum of its bytes make `0xFFFF`, and no other checksum does (R103). -/
theorem checksum_completes_iff (c : Checksum) :
    (byteSum bs + c.toNat) % 2 ^ 16 = 0xFFFF ↔ c = checksumOf bs := by
  have hmod := toNat_checksumOf bs
  have hc := c.isLt
  rw [← BitVec.toNat_inj]
  omega

theorem checksumOf_eq_iff {as : List Byte} :
    checksumOf as = checksumOf bs ↔ byteSum as % 2 ^ 16 = byteSum bs % 2 ^ 16 := by
  have has := toNat_checksumOf as
  have hbs := toNat_checksumOf bs
  rw [← BitVec.toNat_inj]
  omega

/-- The checksum tells a byte sequence from one that differs in exactly one byte (R105). -/
theorem checksumOf_set_ne {n : Nat} (hn : n < bs.length) {b : Byte} (hb : bs[n] ≠ b) :
    checksumOf (bs.set n b) ≠ checksumOf bs := by
  have hsum := byteSum_set hn b
  have hold := bs[n].isLt
  have hnew := b.isLt
  rw [Ne, ← BitVec.toNat_inj] at hb
  rw [Ne, checksumOf_eq_iff]
  omega

/-! ### What a receiver reads: bytes with a checksum behind them -/

theorem take_append_trailer (bs : List Byte) (v : Nat) :
    (bs ++ fieldBytes 2 v).take ((bs ++ fieldBytes 2 v).length - 2) = bs :=
  List.take_left' (by simp)

/-- The receiver reads back the checksum, low byte first (R100, R103). -/
theorem receivedChecksum_append (bs : List Byte) (c : Checksum) :
    receivedChecksum (bs ++ fieldBytes 2 c.toNat) = c.toNat := by
  have hlow : (bs ++ fieldBytes 2 c.toNat).length - 2 = bs.length := by simp
  have hhigh : (bs ++ fieldBytes 2 c.toNat).length - 1 = bs.length + 1 := by simp
  rw [receivedChecksum, hlow, hhigh, List.getD_append_right _ _ _ _ (Nat.le_refl _),
    List.getD_append_right _ _ _ _ (Nat.le_add_right _ _), Nat.sub_self, Nat.add_sub_cancel_left,
    toNat_getD_fieldBytes _ (by decide), toNat_getD_fieldBytes _ (by decide)]
  have hc := c.isLt
  omega

theorem frameVerifies_append_iff (c : Checksum) :
    FrameVerifies (bs ++ fieldBytes 2 c.toNat) ↔ c = checksumOf bs := by
  rw [FrameVerifies, take_append_trailer, receivedChecksum_append]
  exact checksum_completes_iff c

/-! ### The sum of a legal frame -/

/-- Some bank is not empty, so a frame has a payload byte (R6). -/
theorem five_le_frameLen (hp : p.Wf) : 5 ≤ p.frameLen := by
  obtain ⟨hbank, ⟨-, hW⟩, -, ⟨hV, -⟩, -⟩ := hp
  have hpayload : 0 < p.nw * p.wb + p.P * p.V := by
    rcases Nat.eq_zero_or_pos p.B with hB | hB
    · exact Nat.add_pos_right _ (Nat.mul_pos (by omega) hV)
    · have hnw : 0 < p.nw := Nat.div_pos (by omega) (by omega)
      have hwb : 0 < p.wb := Nat.div_pos hW (by decide)
      exact Nat.add_pos_left (Nat.mul_pos hnw hwb) _
  rw [Params.frameLen, Nat.add_assoc]
  omega

theorem frameLen_le (hp : p.Wf) : p.frameLen ≤ 255 := by
  obtain ⟨-, -, hfits, -⟩ := hp
  exact hfits

theorem length_payloadBytes (hw : words.length = p.nw) (hp : pots.length = p.P) :
    (payloadBytes p words pots).length = p.frameLen - 4 := by
  have hlen := length_summedBytes hw hp
  simp only [summedBytes, List.length_cons] at hlen
  omega

/-- The sum of a legal frame: the length, the tag `0x40`, the payload (R99). -/
theorem byteSum_summedBytes (hp : p.Wf) :
    byteSum (summedBytes p words pots) = p.frameLen + 0x40 + byteSum (payloadBytes p words pots) := by
  have hbyte : (BitVec.ofNat 8 p.frameLen).toNat = p.frameLen :=
    (BitVec.toNat_ofNat _ 8).trans (Nat.mod_eq_of_lt (Nat.lt_succ_of_le (frameLen_le hp)))
  have htag : frameTag.toNat = 0x40 := rfl
  rw [summedBytes, byteSum_cons, byteSum_cons, hbyte, htag, Nat.add_assoc]

/-- R104's bound: `L = 255` and every payload byte `0xFF`. -/
theorem byteSum_summedBytes_le (hp : p.Wf) (hw : words.length = p.nw) (hv : pots.length = p.P) :
    byteSum (summedBytes p words pots) ≤ 64324 := by
  have hlen := frameLen_le hp
  have hpayload := byteSum_le (payloadBytes p words pots)
  rw [length_payloadBytes hw hv] at hpayload
  rw [byteSum_summedBytes hp]
  omega

/-! ### The checksum of an EMIT's frame -/

/-- Settles O35: a frame carries the checksum of the bytes before it. -/
theorem everyFrameVerifies : Obligations.EveryFrameVerifies := by
  intro s hinv
  refine exists_emitted_frame (inv_iff_legal.1 hinv) ⟨(frameVerifies_append_iff _).2 rfl, ?_⟩
  rw [frameBytes, take_append_trailer, receivedChecksum_append]
  exact (toNat_checksumOf _).symm

/-- Settles O36: the sum is between `5 + 0x40` and R104's bound. -/
theorem checksumNeverWraps : Obligations.ChecksumNeverWraps := by
  intro s hinv
  have h : s.Legal := inv_iff_legal.1 hinv
  have hle := byteSum_summedBytes_le h.params h.words.count h.pots.count
  have hge := five_le_frameLen h.params
  have hsum := byteSum_summedBytes (words := s.btnWords) (pots := s.dataPots) h.params
  refine exists_emitted_frame h ?_
  rw [frameBytes, take_append_trailer, receivedChecksum_append, toNat_checksumOf_of_le (by omega)]
  omega

/-- Settles O37: the changed byte is one of the summed bytes, so the checksum behind them is not the
checksum of what the receiver sums. -/
theorem oneChangedByteIsDetected : Obligations.OneChangedByteIsDetected := by
  intro s hinv
  have h : s.Legal := inv_iff_legal.1 hinv
  refine exists_emitted_frame h fun n b _ hn hb => ?_
  have hin : n < (summedBytes s.par s.btnWords s.dataPots).length := by
    have hlen := four_le_frameLen s.par
    rw [length_summedBytes h.words.count h.pots.count]
    omega
  have hne : (summedBytes s.par s.btnWords s.dataPots)[n] ≠ b := by
    rw [frameBytes, List.getElem?_append_left hin, List.getElem?_eq_getElem hin] at hb
    exact fun heq => hb (congrArg some heq)
  rw [frameBytes, List.set_append_left n b hin, frameVerifies_append_iff]
  exact (checksumOf_set_ne hin hne).symm

end Sys2Proof.Machine
end

section
/-! PROOFS. EMIT drains both banks, so the next EMIT sends the all-zero-payload frame (R95, R101,
R102). -/

namespace Sys2Proof.Machine

variable {s : State} {p : Params}

/-- Settles O32. -/
theorem emitSendsOneFrameAndDrains : Obligations.EmitSendsOneFrameAndDrains := fun _ hinv =>
  ⟨_, exec_emit_eq (inv_iff_legal.1 hinv), rfl⟩

theorem fieldBytes_zero (n : Nat) : fieldBytes n 0 = List.replicate n 0#8 := by
  simp [fieldBytes]

theorem payloadBytes_zero (p : Params) :
    payloadBytes p (List.replicate p.nw 0) (List.replicate p.P 0) =
      List.replicate (p.frameLen - 4) 0#8 := by
  have hlen : p.frameLen - 4 = p.nw * p.wb + p.P * p.V := by
    rw [Params.frameLen]
    omega
  rw [payloadBytes, List.flatMap_replicate, List.flatMap_replicate, fieldBytes_zero, fieldBytes_zero,
    List.flatten_replicate_replicate, List.flatten_replicate_replicate, List.replicate_append_replicate,
    hlen]

theorem byteSum_replicate_zero (n : Nat) : byteSum (List.replicate n 0#8) = 0 := by
  simp [byteSum]

/-- The frame of two drained banks (R102). -/
theorem frameBytes_zero (hp : p.Wf) :
    frameBytes p (List.replicate p.nw 0) (List.replicate p.P 0) = zeroFrame p := by
  have hlen := frameLen_le hp
  have hsum : byteSum (summedBytes p (List.replicate p.nw 0) (List.replicate p.P 0)) =
      p.frameLen + 0x40 := by
    rw [byteSum_summedBytes hp, payloadBytes_zero, byteSum_replicate_zero, Nat.add_zero]
  rw [frameBytes, toNat_checksumOf_of_le (by omega), hsum, ← Nat.sub_sub, summedBytes, payloadBytes_zero]
  rfl

/-- EMIT on drained banks writes the all-zero-payload frame (R102). -/
theorem State.Legal.exec_emit_of_drained (h : s.Legal) (hwords : s.btnWords = List.replicate s.par.nw 0)
    (hpots : s.dataPots = List.replicate s.par.P 0) :
    ∃ t, Machine.exec .emit s = .next t ∧
      t.record = s.record ++ (zeroFrame s.par).map .sinkWrite := by
  refine ⟨_, exec_emit_eq h, ?_⟩
  rw [← frameBytes_zero h.params, ← hwords, ← hpots]
  rfl

/-- Settles O39: an EMIT drains the banks and keeps the block legal, and a reset gives drained banks. -/
theorem secondEmitSendsZeros : Obligations.SecondEmitSendsZeros := by
  refine ⟨fun s hinv => ?_, fun p hp => ?_⟩
  · have h : s.Legal := inv_iff_legal.1 hinv
    have hfirst := exec_emit_eq h
    obtain ⟨u, hsecond, hrecord⟩ := (h.exec hfirst).exec_emit_of_drained rfl rfl
    exact ⟨_, u, hfirst, hsecond, hrecord⟩
  · exact (inv_iff_legal.1 (resetWith_inv hp)).exec_emit_of_drained rfl rfl

end Sys2Proof.Machine
end

section
/-! PROOFS. The commands of the sampler that read no input: NOP (R110), SAMPLE while `cfg_done = 0`
(R112, R139), and CONFIGURE on a block without a calibration table (R75, R88, R111). -/

namespace Sys2Proof.Machine

variable {s : State}

/-- NOP only draws the response (R46, R110). -/
theorem exec_nop (s : State) : exec .nop s = .next s.noResponse := rfl

/-- SAMPLE before CONFIGURE only draws the response (R46, R112, R139). -/
theorem execSample_of_notConfigured (hopen : s.cfgDone = false) : execSample s = .next s.noResponse := by
  rw [execSample, State.sampleOpen, if_neg (Bool.eq_false_iff.1 hopen)]

/-- A block without channels, or with calibration disabled, has no table to settle (R75, R88). -/
theorem hasTable_eq_false {p : Params} (h : p.P = 0 ∨ p.calEn = false) : hasTable p = false := by
  refine Bool.eq_false_iff.2 fun htable => ?_
  obtain ⟨hP, hc⟩ := hasTable_iff.1 htable
  exact h.elim hP.ne' fun hdisabled => Bool.eq_false_iff.1 hdisabled hc

/-- The pins, then the end of CONFIGURE (R65, R111). -/
theorem finishConfigure_configurePins_eq (s : State) :
    finishConfigure (potPins (btnConfigure s)) = (pinsOnlyState s).noResponse := by
  rw [finishConfigure_eq, configurePins_eq]
  rfl

/-- Settles O18. -/
theorem nopChangesNothing : Obligations.NopChangesNothing := fun s =>
  ⟨_, exec_nop s, noResponse_unanswered s⟩

/-- Settles O25. -/
theorem sampleBeforeConfigureDoesNothing : Obligations.SampleBeforeConfigureDoesNothing := fun s hopen =>
  ⟨_, execSample_of_notConfigured hopen, noResponse_unanswered s⟩

/-- Settles O42: of the two reasons to have no table, either leaves CONFIGURE the pins and its end. -/
theorem configureWithoutATableSetsPins : Obligations.ConfigureWithoutATableSetsPins := by
  intro s _ _ hnone
  refine ⟨_, execConfigure_of_noTable (hasTable_eq_false hnone), ?_⟩
  rw [finishConfigure_configurePins_eq]
  exact noResponse_unanswered _

end Sys2Proof.Machine
end

section
/-! PROOFS. No step of a legal state stops (R14, R116, R120): every command completes, since SAMPLE meets
no degenerate pair, and every event of the host has its step in both phases. -/

namespace Sys2Proof.Machine

variable {s : State}

/-- CONFIGURE completes or begins its wait, whatever the table (R75, R111). -/
theorem execConfigure_completes (s : State) : ∃ t, execConfigure s = .next t := by
  cases htable : hasTable s.par with
  | false => exact ⟨_, execConfigure_of_noTable htable⟩
  | true =>
    cases hzero : tableAllZero s with
    | false => exact ⟨_, execConfigure_of_table htable hzero⟩
    | true => exact ⟨_, execConfigure_of_zeroTable htable hzero⟩

/-- Every command completes in a legal state: only SAMPLE can fault, at a degenerate pair, and a
configured legal block has none (R14, R82 (iv)). -/
theorem State.Legal.exec_completes (h : s.Legal) (i : Instr) : ∃ t, Machine.exec i s = .next t := by
  cases i with
  | nop => exact ⟨_, exec_nop s⟩
  | configure => exact execConfigure_completes s
  | sample =>
    cases hd : s.cfgDone with
    | false => exact ⟨_, execSample_of_notConfigured hd⟩
    | true => exact ⟨_, h.exec_sample hd⟩
  | emit => exact ⟨_, exec_emit_eq h⟩
  | rdword j => exact ⟨_, rfl⟩
  | rdpot k => exact ⟨_, exec_rdpot k s⟩
  | rdcal e => exact ⟨_, exec_rdcal e s⟩
  | wrcal e v => exact ⟨_, rfl⟩

/-- A pause of the host does not hold the wait: the pass is made (R77). -/
theorem step_pauseWaiting {rest : List HostEvent} (hw : s.par.Wf) (hp : s.phase = .calibrating)
    (hh : s.host = .pause :: rest) : step s = .next (calibrationStep { s with host := rest }) := by
  simp only [step, fetch_calibrating hw hp, fetchCalibrating, hh]

/-- An idle legal block answers every event of the host (R17, R135, R146). -/
theorem State.Legal.step_completes_of_idle (h : s.Legal) (hp : s.phase = .idle) :
    ∃ t, step s = .next t := by
  have hw := h.params
  cases hh : s.host with
  | nil => exact ⟨_, step_noEvent hw hp hh⟩
  | cons event rest =>
    cases event with
    | command w =>
      obtain ⟨t, ht⟩ := (h.withHost rest).exec_completes (decodeWord s.par.C w)
      exact ⟨t, (step_command hw hp hh).trans ht⟩
    | interrupted w n =>
      obtain ⟨t, ht⟩ := (h.withHost rest).exec_completes (decodeWord s.par.C w)
      exact ⟨_, step_interrupted hw hp hh ht⟩
    | reset n => exact ⟨_, step_reset hw hp hh⟩
    | pause => exact ⟨_, step_pause hw hp hh⟩

/-- A waiting block of legal parameters makes a pass of the wait, whole or cut by the reset input
(R77, R141, R145). -/
theorem step_completes_of_calibrating (hw : s.par.Wf) (hp : s.phase = .calibrating) :
    ∃ t, step s = .next t := by
  cases hh : s.host with
  | nil => exact ⟨_, step_wait hw hp (by simp [State.HostWaits, hh])⟩
  | cons event rest =>
    cases event with
    | command w => exact ⟨_, step_wait hw hp (by simp [State.HostWaits, hh])⟩
    | interrupted w n => exact ⟨_, step_wait hw hp (by simp [State.HostWaits, hh])⟩
    | reset n => exact ⟨_, step_resetWaiting hw hp hh⟩
    | pause => exact ⟨_, step_pauseWaiting hw hp hh⟩

/-- Settles O14, phase by phase. -/
theorem legalStatesNeverStop : Obligations.LegalStatesNeverStop := by
  intro s hinv
  have h : s.Legal := inv_iff_legal.1 hinv
  cases hp : s.phase with
  | idle => exact h.step_completes_of_idle hp
  | calibrating => exact step_completes_of_calibrating h.params hp

end Sys2Proof.Machine
end

section
/-! PROOFS. The makers of the transactions (R116, R123 to R125): the record only grows, and what an
operation adds to it is of the kinds the operation makes. No lemma here needs a legal state. -/

namespace Sys2Proof.Machine

variable {s t u : State} {Q : Transaction → Prop}

/-- From `s` to `t` the record only grows, by transactions that all satisfy `Q` (R116). -/
def RecordsOnly (Q : Transaction → Prop) (s t : State) : Prop :=
  ∃ new, t.record = s.record ++ new ∧ ∀ x ∈ new, Q x

/-! ### How the record grows -/

namespace RecordsOnly

theorem of_record_eq (h : t.record = s.record) : RecordsOnly Q s t :=
  ⟨[], by rw [h, List.append_nil], nofun⟩

theorem of_record_snoc {x : Transaction} (h : t.record = s.record ++ [x]) (hx : Q x) :
    RecordsOnly Q s t :=
  ⟨[x], h, fun _ hy => List.eq_of_mem_singleton hy ▸ hx⟩

theorem trans (hst : RecordsOnly Q s t) (htu : RecordsOnly Q t u) : RecordsOnly Q s u := by
  obtain ⟨first, hfirst, hQfirst⟩ := hst
  obtain ⟨second, hsecond, hQsecond⟩ := htu
  exact ⟨first ++ second, by rw [hsecond, hfirst, List.append_assoc],
    List.forall_mem_append.2 ⟨hQfirst, hQsecond⟩⟩

/-- A loop records only what its passes record. -/
theorem forUp {f : Nat → State → State} (hf : ∀ k u, RecordsOnly Q u (f k u)) (n : Nat) (s : State) :
    RecordsOnly Q s (forUp n f s) :=
  forUp_keeps (Q := RecordsOnly Q s) (fun k u hu => hu.trans (hf k u)) n (of_record_eq rfl)

/-- A loop that does not stop records only what its completed passes record. -/
theorem forUpFault {f : Nat → State → Except Fault State}
    (hf : ∀ k u v, f k u = .ok v → RecordsOnly Q u v) {n : Nat} (h : forUpFault n f s = .ok t) :
    RecordsOnly Q s t := by
  induction n generalizing t with
  | zero => cases h; exact of_record_eq rfl
  | succ n ih =>
    rw [Machine.forUpFault] at h
    cases hn : Machine.forUpFault n f s with
    | ok u => rw [hn] at h; exact (ih hn).trans (hf n u t h)
    | error e => rw [hn] at h; cases h

end RecordsOnly

/-! ### CONFIGURE and its wait record pins, polls, reads and notices -/

/-- CAL.CORRECT records notices (R79, R125). -/
theorem calCorrect_recordsOnly (hQ : ∀ e, Q (.diagEmit e)) (s : State) :
    RecordsOnly Q s (calCorrect s) := by
  refine .forUp (fun k u => ?_) _ s
  unfold calCorrectChannel
  split_ifs
  · exact .of_record_snoc rfl (hQ _)
  · exact .of_record_eq rfl

/-- AUTOCAL.REPORT records notices (R80, R125). -/
theorem autocalReport_recordsOnly (hQ : ∀ e, Q (.diagEmit e)) (s : State) :
    RecordsOnly Q s (autocalReport s) :=
  .forUp (fun _ _ => .of_record_snoc rfl (hQ _)) _ s

/-- A sweep records pin reads (R77, R123). -/
theorem sweep_recordsOnly (hQ : ∀ id v, Q (.readAnalog id v)) (s : State) :
    RecordsOnly Q s (sweep s) := by
  have hupdate : ∀ k x u, (calUpdate k x u).record = u.record := fun k x u => by
    unfold calUpdate
    split_ifs <;> rfl
  exact .forUp (fun _ u => .of_record_snoc (hupdate _ _ _) (hQ _ _)) _ s

@[simp] theorem autocalInit_record (s : State) : (autocalInit s).record = s.record :=
  forUp_leaves State.record (fun _ _ => by rfl) _ s

/-- AUTOCAL.INIT writes the table, and the prompt is a notice (R76, R77). -/
theorem beginAutocal_record (s : State) :
    (beginAutocal s).record = s.record ++ [.diagEmit ⟨.prompt, 0, 0, 0⟩] :=
  congrArg (· ++ _) (autocalInit_record s)

@[simp] theorem finishConfigure_record (s : State) : (finishConfigure s).record = s.record := rfl

/-- The first part of every CONFIGURE records pin configurations (R65, R75). -/
theorem configurePins_recordsOnly (hQ : ∀ id m, Q (.configurePin id m)) (s : State) :
    RecordsOnly Q s (potPins (btnConfigure s)) :=
  .trans (.forUp (fun _ _ => .of_record_snoc rfl (hQ _ _)) _ s)
    (.forUp (fun _ _ => .of_record_snoc rfl (hQ _ _)) _ _)

/-- CONFIGURE makes pin configurations and diagnostics (R123, R125; log 5). -/
theorem execConfigure_recordsOnly (h : execConfigure s = .next t) :
    RecordsOnly (CommandMayMake .configure) s t := by
  have hpins := configurePins_recordsOnly (Q := CommandMayMake .configure)
    (fun id m => .inl ⟨id, m, rfl⟩) s
  have hnotice : ∀ e, CommandMayMake .configure (.diagEmit e) := fun e => .inr ⟨e, rfl⟩
  obtain ⟨-, -, rfl⟩ | ⟨-, -, rfl⟩ | ⟨-, rfl⟩ := execConfigure_cases h
  · exact hpins.trans (.of_record_snoc (beginAutocal_record _) (hnotice _))
  · exact (hpins.trans (calCorrect_recordsOnly hnotice _)).trans (.of_record_eq rfl)
  · exact hpins.trans (.of_record_eq rfl)

/-- A pass of the wait makes a poll, then pin reads or notices (R77, R79, R80). -/
theorem calibrationStep_recordsOnly (s : State) : RecordsOnly WaitMayMake s (calibrationStep s) := by
  have hpoll : RecordsOnly WaitMayMake s (diagInAvail s).2 :=
    .of_record_snoc (diagInAvail_record s) (.inl ⟨_, rfl⟩)
  have hread : ∀ id v, WaitMayMake (.readAnalog id v) := fun id v => .inr (.inl ⟨id, v, rfl⟩)
  have hnotice : ∀ e, WaitMayMake (.diagEmit e) := fun e => .inr (.inr ⟨e, rfl⟩)
  rw [calibrationStep_eq]
  split_ifs
  · have hcorrect := hpoll.trans (calCorrect_recordsOnly hnotice _)
    exact (hcorrect.trans (autocalReport_recordsOnly hnotice _)).trans (.of_record_eq rfl)
  · exact hpoll.trans (sweep_recordsOnly hread _)

/-! ### SAMPLE records pin reads -/

/-- BTN.SAMPLE makes digital reads (R67, R123). -/
theorem btnSample_recordsOnly (hQ : ∀ id v, Q (.readDigital id v)) (s : State) :
    RecordsOnly Q s (btnSample s) := by
  have hbutton : ∀ i u, RecordsOnly Q u (sampleButton i u) := fun i u => by
    unfold sampleButton
    dsimp only
    split_ifs <;> exact .of_record_snoc rfl (hQ _ _)
  exact .trans (.of_record_eq (forUp_leaves State.record (fun _ _ => by rfl) _ s))
    (.forUp hbutton _ _)

/-- POT.SAMPLE makes analog reads (R83, R84, R123). -/
theorem potSample_recordsOnly (hQ : ∀ id v, Q (.readAnalog id v)) (h : potSample s = .ok t) :
    RecordsOnly Q s t := by
  have hclear : RecordsOnly Q s (potClear s) :=
    .of_record_eq (forUp_leaves State.record (fun _ _ => by rfl) _ s)
  refine hclear.trans ?_
  unfold potSample at h
  split_ifs at h
  · refine .forUpFault (fun k u v hv => ?_) h
    unfold sampleChannelRemapped at hv
    dsimp only at hv
    split at hv <;> cases hv
    exact .of_record_snoc rfl (hQ _ _)
  · refine .forUpFault (fun k u v hv => ?_) h
    cases hv
    exact .of_record_snoc rfl (hQ _ _)

/-- SAMPLE makes pin reads (R112, R123). -/
theorem execSample_recordsOnly (h : execSample s = .next t) :
    RecordsOnly (CommandMayMake .sample) s t := by
  obtain ⟨-, rfl⟩ | ⟨-, u, hu, rfl⟩ := execSample_cases h
  · exact .of_record_eq rfl
  · have hbuttons := btnSample_recordsOnly (Q := CommandMayMake .sample)
      (fun id v => .inl ⟨id, v, rfl⟩) s
    have hpots := potSample_recordsOnly (Q := CommandMayMake .sample)
      (fun id v => .inr ⟨id, v, rfl⟩) hu
    exact (hbuttons.trans hpots).trans (.of_record_eq rfl)

/-! ### EMIT records sink writes -/

/-- ENCODE makes sink writes: header, drains and trailer (R95, R124). -/
theorem encodeFrame_recordsOnly (hQ : ∀ b, Q (.sinkWrite b)) (s : State) :
    RecordsOnly Q s (encodeFrame s) := by
  have hput : ∀ b u, RecordsOnly Q u (put b u) := fun b u => .of_record_snoc (put_record u b) (hQ b)
  have hsink : ∀ b u, RecordsOnly Q u (sinkWrite b u) := fun b u =>
    .of_record_snoc (sinkWrite_record u b) (hQ b)
  have hheader : RecordsOnly Q s (putHeader s) :=
    .trans (t := { s with csum := csumInit }) (.of_record_eq rfl) ((hput _ _).trans (hput _ _))
  have hword : ∀ j u, RecordsOnly Q u (drainWord j u) := fun j u =>
    .forUp (fun _ _ => .of_record_snoc rfl (hQ _)) _ u
  have hpot : ∀ k u, RecordsOnly Q u (drainPot k u) := fun k u =>
    .forUp (fun _ _ => .of_record_snoc rfl (hQ _)) _ u
  have hbanks := (hheader.trans (.forUp hword s.par.nw _)).trans (.forUp hpot s.par.P _)
  exact (hbanks.trans ((hsink _ _).trans (hsink _ _))).trans (.of_record_eq rfl)

/-! ### The commands -/

@[simp] theorem writeCalOperand_record (e : Idx) (v : Nat) (s : State) :
    (s.writeCalOperand e v).record = s.record := by
  rw [writeCalOperand_eq]
  split_ifs <;> rfl

theorem execWrcal_record {e : Idx} {v : Nat} (h : execWrcal e v s = .next t) : t.record = s.record := by
  obtain ⟨-, rfl⟩ | ⟨-, rfl⟩ := execWrcal_cases h
  · exact writeCalOperand_record e v s
  · rfl

/-- Every command makes only its own kinds of transaction (R123 to R125). -/
theorem exec_recordsOnly {i : Instr} (h : exec i s = .next t) : RecordsOnly (CommandMayMake i) s t := by
  cases i with
  | configure => exact execConfigure_recordsOnly h
  | sample => exact execSample_recordsOnly h
  | emit => cases h; exact (encodeFrame_recordsOnly (fun b => ⟨b, rfl⟩) s).trans (.of_record_eq rfl)
  | wrcal e v => exact .of_record_eq (execWrcal_record h)
  | nop | rdword | rdpot | rdcal => cases h; exact .of_record_eq rfl

/-- Settles O16. -/
theorem transactionsHaveTheirMakers : Obligations.TransactionsHaveTheirMakers :=
  ⟨fun _ _ _ h => exec_recordsOnly h, calibrationStep_recordsOnly⟩

end Sys2Proof.Machine
end

section
/-! PROOFS. The counts of transactions (R147), kind by kind: of the records in closed form, and of a
command whose later transactions are of another kind. -/

namespace Sys2Proof.Machine

variable {s t : State} {kind : Transaction → Bool}

/-! ### Counting one kind -/

/-- A loop that makes one transaction of a kind in every pass. -/
theorem countP_map_of_kind {α : Type} {f : α → Transaction} (hf : ∀ a, kind (f a) = true)
    (l : List α) : (l.map f).countP kind = l.length := by
  rw [List.countP_map]
  exact List.countP_eq_length.2 fun a _ => hf a

/-- A loop that makes none of a kind. -/
theorem countP_map_of_not_kind {α : Type} {f : α → Transaction} (hf : ∀ a, kind (f a) = false)
    (l : List α) : (l.map f).countP kind = 0 := by
  rw [List.countP_map]
  exact List.countP_eq_zero.2 fun a _ => Bool.eq_false_iff.1 (hf a)

/-- What records only other kinds leaves the count of a kind. -/
theorem RecordsOnly.countP_eq (h : RecordsOnly (fun x => kind x = false) s t) :
    t.record.countP kind = s.record.countP kind := by
  obtain ⟨new, hrecord, hother⟩ := h
  have hnone : new.countP kind = 0 :=
    List.countP_eq_zero.2 fun x hx => Bool.eq_false_iff.1 (hother x hx)
  rw [hrecord, List.countP_append, hnone, Nat.add_zero]

/-! ### The records in closed form -/

/-- One pin setting for every button and every channel (R65, R75). -/
theorem configurePin_count_configureRecord (p : Params) :
    (configureRecord p).countP Transaction.isConfigurePin = p.B + p.P := by
  rw [configureRecord, List.countP_append, countP_map_of_kind fun _ => rfl,
    countP_map_of_kind fun _ => rfl, List.length_range, List.length_range]

/-- One digital read for every button (R67). -/
theorem readDigital_count_sampleRecord (p : Params) (e : Env) :
    (sampleRecord p e).countP Transaction.isReadDigital = p.B := by
  rw [sampleRecord, List.countP_append, countP_map_of_kind fun _ => rfl,
    countP_map_of_not_kind fun _ => rfl, List.length_range, Nat.add_zero]

/-- One analog read for every channel (R83, R84). -/
theorem readAnalog_count_sampleRecord (p : Params) (e : Env) :
    (sampleRecord p e).countP Transaction.isReadAnalog = p.P := by
  rw [sampleRecord, List.countP_append, countP_map_of_not_kind fun _ => rfl,
    countP_map_of_kind fun _ => rfl, List.length_range, Nat.zero_add]

/-- SAMPLE does not poll (R112). -/
theorem poll_count_sampleRecord (p : Params) (e : Env) :
    (sampleRecord p e).countP Transaction.isPoll = 0 := by
  rw [sampleRecord, List.countP_append, countP_map_of_not_kind fun _ => rfl,
    countP_map_of_not_kind fun _ => rfl]

/-- One analog read for every channel in a sweep (R77). -/
theorem readAnalog_count_sweepRecord (p : Params) (e : Env) (u : Nat) :
    (sweepRecord p e u).countP Transaction.isReadAnalog = p.P := by
  rw [sweepRecord, List.countP_cons_of_neg (by decide), countP_map_of_kind fun _ => rfl,
    List.length_range]

/-- One poll before a sweep (R77). -/
theorem poll_count_sweepRecord (p : Params) (e : Env) (u : Nat) :
    (sweepRecord p e u).countP Transaction.isPoll = 1 := by
  rw [sweepRecord, List.countP_cons_of_pos (by decide), countP_map_of_not_kind fun _ => rfl]

/-- `n` sweeps make `n` times what each of them makes. -/
theorem countP_sweeps {p : Params} {e : Env} {m : Nat} (h : ∀ u, (sweepRecord p e u).countP kind = m)
    (n : Nat) : ((List.range n).flatMap (sweepRecord p e)).countP kind = n * m := by
  induction n with
  | zero => rw [List.range_zero, List.flatMap_nil, List.countP_nil, Nat.zero_mul]
  | succ n ih =>
    rw [List.range_succ, List.flatMap_append, List.flatMap_singleton, List.countP_append, ih, h,
      Nat.succ_mul]

/-- The notices and the report are diagnostic events (R79, R80). -/
theorem countP_correctRecord (hdiag : ∀ e, kind (.diagEmit e) = false) (p : Params)
    (pair : Nat → Nat × Nat) : (correctRecord p pair).countP kind = 0 :=
  countP_map_of_not_kind (fun _ => hdiag _) _

theorem countP_reportRecord (hdiag : ∀ e, kind (.diagEmit e) = false) (p : Params)
    (pair : Nat → Nat × Nat) : (reportRecord p pair).countP kind = 0 :=
  countP_map_of_not_kind (fun _ => hdiag _) _

/-- What a whole wait of `n` sweeps adds to the count of a kind that is no diagnostic event: the sweeps
and the last poll (R77). -/
theorem countP_calibratedState (hdiag : ∀ e, kind (.diagEmit e) = false) {m : Nat}
    (h : ∀ u, (sweepRecord s.par s.env u).countP kind = m) (n : Nat) :
    (calibratedState s n).record.countP kind =
      s.record.countP kind + n * m + [Transaction.diagInAvail true].countP kind := by
  simp only [calibratedState, List.countP_append, countP_sweeps h, countP_correctRecord hdiag,
    countP_reportRecord hdiag, Nat.add_zero]

/-! ### CONFIGURE -/

/-- After its pins CONFIGURE records only diagnostic events: the prompt or the notices (R75, R79). -/
theorem execConfigure_recordsOnly_afterPins {Q : Transaction → Prop} (hQ : ∀ e, Q (.diagEmit e))
    (h : execConfigure s = .next t) : RecordsOnly Q (potPins (btnConfigure s)) t := by
  obtain ⟨-, -, rfl⟩ | ⟨-, -, rfl⟩ | ⟨-, rfl⟩ := execConfigure_cases h
  · exact .of_record_snoc (beginAutocal_record _) (hQ _)
  · exact (calCorrect_recordsOnly hQ _).trans (.of_record_eq rfl)
  · exact .of_record_eq rfl

/-- CONFIGURE makes `B + P` pin settings, whatever the table (R65, R75, R147). -/
theorem configurePin_count_execConfigure (h : execConfigure s = .next t) :
    t.record.countP Transaction.isConfigurePin =
      s.record.countP Transaction.isConfigurePin + (s.par.B + s.par.P) := by
  have hafter : t.record.countP Transaction.isConfigurePin =
      (potPins (btnConfigure s)).record.countP Transaction.isConfigurePin :=
    (execConfigure_recordsOnly_afterPins (fun _ => rfl) h).countP_eq
  rw [hafter, configurePins_eq, List.countP_append, configurePin_count_configureRecord]

/-- Settles O49: CONFIGURE by its pins, the other commands and the wait by their records in closed
form. -/
theorem transactionCounts : Obligations.TransactionCounts := by
  intro s hinv
  have h : s.Legal := inv_iff_legal.1 hinv
  refine ⟨?_, fun hd => ⟨_, h.exec_sample hd, ?_, ?_⟩, ⟨_, exec_emit_eq h, ?_⟩,
    fun n hp hh hdone hend => ?_⟩
  · obtain ⟨t, ht⟩ := execConfigure_completes s
    exact ⟨t, ht, configurePin_count_execConfigure ht⟩
  · rw [noResponse_record, sampledState, List.countP_append, readDigital_count_sampleRecord]
  · rw [noResponse_record, sampledState, List.countP_append, readAnalog_count_sampleRecord]
  · rw [emittedState, List.countP_append, countP_map_of_kind fun _ => rfl,
      length_frameBytes h.words.count h.pots.count]
  · obtain ⟨t, hrun, ht⟩ := autocalibrationRun s n hinv hp hh hdone hend
    have hrecord : t.record = (calibratedState s n).record := by rw [ht]
    refine ⟨t, hrun, ?_, ?_⟩
    · rw [hrecord, countP_calibratedState (fun _ => rfl) (readAnalog_count_sweepRecord _ _)]
      rfl
    · rw [hrecord, countP_calibratedState (fun _ => rfl) (poll_count_sweepRecord _ _), Nat.mul_one]
      rfl

end Sys2Proof.Machine
end

section
/-! PROOFS. The reset input inside a command or a pass of the wait (R141, R143, R146): what it leaves is
reset registers and the first of the transactions, so each statement turns on what the whole command or
pass would have recorded, and on the environment having answered exactly the reads of that record. -/

namespace Sys2Proof.Machine

variable {s t : State}

/-! ### What a cut leaves -/

/-- A reset inside what would have made the transactions `new`: reset registers and the first `n` of
`new` (R22, R146). -/
theorem cutShort_resetsRegisters {new : List Transaction} (n : Nat) (h : t.record = s.record ++ new) :
    cutShort n s t = { resetRegisters s with
      record := s.record ++ new.take n
      env := s.env.afterAll (new.take n)
      csum := (cutShort n s t).csum
      rspData := (cutShort n s t).rspData
      draws := (cutShort n s t).draws } := by
  rw [cutShort_eq n h]
  exact hostReset_resetsRegisters _

/-! ### The environment answers what a command reads -/

/-- A transaction the environment does not answer (R123 to R125). -/
structure Transaction.Unread (x : Transaction) : Prop where
  notDigital : x.isReadDigital = false
  notAnalog : x.isReadAnalog = false
  notPoll : x.isPoll = false

/-- Transactions that read nothing leave the environment. -/
theorem afterAll_of_unread {new : List Transaction} (h : ∀ x ∈ new, x.Unread) (e : Env) :
    e.afterAll new = e := by
  have uncounted {kind : Transaction → Bool} (hkind : ∀ x : Transaction, x.Unread → kind x = false) :
      new.countP kind = 0 :=
    List.countP_eq_zero.2 fun x hx => Bool.eq_false_iff.1 (hkind x (h x hx))
  rw [Env.afterAll, uncounted fun _ => (·.notDigital), uncounted fun _ => (·.notAnalog),
    uncounted fun _ => (·.notPoll), afterDigital_zero, afterAnalog_zero, afterPolls_zero]

/-- A SAMPLE takes one answer for every input (R67, R83). -/
theorem afterAll_sampleRecord (p : Params) (e : Env) :
    e.afterAll (sampleRecord p e) = (e.afterDigital p.B).afterAnalog p.P := by
  rw [Env.afterAll, readDigital_count_sampleRecord, readAnalog_count_sampleRecord,
    poll_count_sampleRecord, afterPolls_zero]

/-- Of the commands only SAMPLE reads (R123; log 5). -/
theorem CommandMayMake.unread {i : Instr} {x : Transaction} (hi : i ≠ .sample)
    (h : CommandMayMake i x) : x.Unread := by
  cases i with
  | configure => obtain ⟨id, m, rfl⟩ | ⟨e, rfl⟩ := h <;> exact ⟨rfl, rfl, rfl⟩
  | sample => exact absurd rfl hi
  | emit => obtain ⟨b, rfl⟩ := h; exact ⟨rfl, rfl, rfl⟩
  | nop | rdword | rdpot | rdcal | wrcal => exact h.elim

@[simp] theorem configurePins_env (s : State) : (potPins (btnConfigure s)).env = s.env := by
  rw [configurePins_eq]

@[simp] theorem calCorrect_env (s : State) : (calCorrect s).env = s.env :=
  forUp_leaves State.env (fun k u => by unfold calCorrectChannel; split_ifs <;> rfl) _ s

@[simp] theorem beginAutocal_env (s : State) : (beginAutocal s).env = s.env :=
  forUp_leaves State.env (fun _ _ => by rfl) _ s

@[simp] theorem finishConfigure_env (s : State) : (finishConfigure s).env = s.env := rfl

@[simp] theorem writeCalOperand_env (e : Idx) (v : Nat) (s : State) :
    (s.writeCalOperand e v).env = s.env := by
  rw [writeCalOperand_eq]
  split_ifs <;> rfl

/-- A command other than SAMPLE leaves the environment (R123; log 5). -/
theorem State.Legal.exec_env {i : Instr} (h : s.Legal) (hi : i ≠ .sample)
    (he : Machine.exec i s = .next t) : t.env = s.env := by
  cases i with
  | configure => obtain ⟨-, -, rfl⟩ | ⟨-, -, rfl⟩ | ⟨-, rfl⟩ := execConfigure_cases he <;> simp
  | sample => exact absurd rfl hi
  | emit => rw [exec_emit_eq h] at he; cases he; rfl
  | wrcal e v =>
    obtain ⟨-, rfl⟩ | ⟨-, rfl⟩ := execWrcal_cases he
    · exact writeCalOperand_env e v s
    · rfl
  | nop | rdword | rdpot | rdcal => cases he; rfl

/-- A command adds transactions to the record, and after it the environment has answered the reads among
them and nothing else (R116, R123). -/
theorem State.Legal.exec_answers_record {i : Instr} (h : s.Legal) (he : Machine.exec i s = .next t) :
    ∃ new, t.record = s.record ++ new ∧ t.env = s.env.afterAll new := by
  by_cases hi : i = .sample
  · subst hi
    obtain ⟨-, rfl⟩ | ⟨hd, -⟩ := execSample_cases he
    · exact ⟨[], (List.append_nil _).symm, (afterAll_nil _).symm⟩
    · rw [h.exec_sample hd] at he
      cases he
      exact ⟨sampleRecord s.par s.env, rfl, (afterAll_sampleRecord _ _).symm⟩
  · obtain ⟨new, hrecord, hmake⟩ := exec_recordsOnly he
    have hunread : ∀ x ∈ new, x.Unread := fun x hx => (hmake x hx).unread hi
    exact ⟨new, hrecord, (h.exec_env hi he).trans (afterAll_of_unread hunread _).symm⟩

/-! ### A command cut by the reset input -/

/-- Settles O50: the whole command completes, and the cut keeps the beginning of its record. -/
theorem resetCutsACommand : Obligations.ResetCutsACommand := by
  intro s w n rest hinv hp hh
  have h : s.Legal := inv_iff_legal.1 hinv
  obtain ⟨u, hu⟩ := (h.withHost rest).exec_completes (decodeWord s.par.C w)
  obtain ⟨new, hrecord, henv⟩ := (h.withHost rest).exec_answers_record hu
  exact ⟨u, new, _, hu, hrecord, henv, step_interrupted h.params hp hh hu,
    cutShort_resetsRegisters n hrecord⟩

/-- Settles O51: the transactions of the EMIT that is cut (`resetCutsACommand`) are the bytes of its
frame, and a sink write reads nothing. -/
theorem cutFrameIsAPrefix : Obligations.CutFrameIsAPrefix := by
  intro s w n rest hinv hp hh hemit
  have h : s.Legal := inv_iff_legal.1 hinv
  obtain ⟨u, new, t, hu, hrecord, -, hstep, ht⟩ := resetCutsACommand s w n rest hinv hp hh
  rw [hemit, exec_emit_eq (h.withHost rest)] at hu
  cases hu
  have hnew : new = (frameBytes s.par s.btnWords s.dataPots).map .sinkWrite :=
    (List.append_cancel_left hrecord).symm
  have hunread : ∀ x ∈ new.take n, x.Unread := fun x hx => by
    rw [hnew] at hx
    obtain ⟨b, -, rfl⟩ := List.mem_map.1 (List.mem_of_mem_take hx)
    exact ⟨rfl, rfl, rfl⟩
  refine ⟨t, hstep, ?_, ?_, ?_, ?_⟩
  · rw [ht, List.map_take, ← hnew]
  · rw [ht, resetRegisters]
  · rw [ht, resetRegisters]
  · rw [ht, afterAll_of_unread hunread]

/-! ### A pass of the wait cut by the reset input -/

/-- One pass of the wait records a poll, then the notices and the report or one sweep (R77, R79, R80). -/
theorem State.Legal.calibrationStep_record (h : s.Legal) (hp : s.phase = .calibrating) :
    (Machine.calibrationStep s).record = s.record ++ passRecord s := by
  have htable := (h.waits hp).1
  rw [calibrationStep_eq, passRecord]
  split_ifs with hdone
  · rw [h.diagInAvail.endAutocal_eq htable]
    simp [hdone]
  · obtain ⟨hmins, hmaxs⟩ := h.diagInAvail.table_lengths htable
    rw [sweep_eq hmins hmaxs]
    simp [hdone, sweepRecord, sweepSample, analogAnswer_afterPolls]

/-- Settles O52: the host's stream is no part of what a pass records. -/
theorem resetCutsAPass : Obligations.ResetCutsAPass := by
  intro s n rest hinv hp hh
  have h : s.Legal := inv_iff_legal.1 hinv
  exact ⟨_, step_resetWaiting h.params hp hh,
    cutShort_resetsRegisters n ((h.withHost rest).calibrationStep_record hp)⟩

end Sys2Proof.Machine
end
